-- ==== Sys2Proof/Word.lean ====
section
/-! DEFINITION. The two word types of the machine: the byte and the 16-bit word (00_scope.md R12). -/

namespace Sys2Proof

/-- A byte: every register but PC, and every memory cell (00_scope.md R12, R14). -/
abbrev Byte := BitVec 8

/-- A word: the program counter and every CPU address (00_scope.md R12, R14). -/
abbrev Word := BitVec 16

end Sys2Proof
end

