-- ==== Sys2Proof/Config.lean ====
section
/-! DEFINITION. The named parameters the spec leaves open (00_scope.md R11, R19), as constants with no body: a claim about
the model holds whatever their values are. RAM_MIRROR, CART_WRITABLE and MIRRORING, which have a default or which the
cartridge sets, are fields of State that no step changes. -/

namespace Sys2Proof

/-- An RGB triple of SYSTEM_PALETTE (49_ppu_compositors.md R1302). -/
structure Rgb where
  r : Byte
  g : Byte
  b : Byte
  deriving DecidableEq, Repr, Inhabited

/-- A pixel of the frame buffer, 8 bits per channel (10_state.md R142). -/
structure Pixel where
  r : Byte
  g : Byte
  b : Byte
  a : Byte
  deriving DecidableEq, Repr, Inhabited

/-- INIT for the accumulator (10_state.md R150; log 1). -/
opaque Config.initA : Byte
/-- INIT for X (10_state.md R150; log 1). -/
opaque Config.initX : Byte
/-- INIT for Y (10_state.md R150; log 1). -/
opaque Config.initY : Byte
/-- INIT for N (10_state.md R150; log 1). -/
opaque Config.initN : Bool
/-- INIT for V (10_state.md R150; log 1). -/
opaque Config.initV : Bool
/-- INIT for D (10_state.md R150; log 1). -/
opaque Config.initD : Bool
/-- INIT for Z (10_state.md R150; log 1). -/
opaque Config.initZ : Bool
/-- INIT for C (10_state.md R150; log 1). -/
opaque Config.initC : Bool
/-- INIT for read_buffer (10_state.md R150, R138; log 1). -/
opaque Config.initReadBuffer : Byte
/-- INIT for a CPU RAM cell (10_state.md R150, 20_memory.md R206; log 2). -/
opaque Config.initRam : Nat → Byte
/-- INIT for a nametable or palette cell of vram (10_state.md R150, 20_memory.md R222; log 4). -/
opaque Config.initVram : Nat → Byte
/-- INIT for an OAM byte (10_state.md R150, R131; log 4). -/
opaque Config.initOam : Nat → Byte
/-- INIT for a pixel of the frame buffer, numbered 256 * y + x (10_state.md R150, R142; log 4). -/
opaque Config.initFb : Nat → Pixel

/-- The open-bus draw of $4014, of the write-only ports and of bits 4:0 of $2002 (20_memory.md R204, 48_ppu_ports.md R1203,
R1212), at each value of the draw counter (log 6, log 15). -/
opaque Config.openBus : Nat → Byte

/-- ExtRead, the answer of the external I/O window at an address (20_memory.md R207), at each value of the draw counter
(log 7). -/
opaque Config.extRead : Word → Nat → Byte

/-- SYSTEM_PALETTE, the RGB triple of a 6-bit palette value (49_ppu_compositors.md R1302; log 8). -/
opaque Config.systemPalette : BitVec 6 → Rgb

end Sys2Proof
end

