-- ==== Sys2Proof/Syntax.lean ====
section
/-! DEFINITION. The instructions as syntax: one constructor of Instr per row of spec/opcode_table.json, with the operand
bytes the row's addressing mode gives it, already assembled (30_encoding.md R302: a 16-bit operand is high ++ low).
Mnemonic, Mode and Operand name the parts of a row. -/

namespace Sys2Proof

/-- The 56 mnemonics (00_scope.md R2). -/
inductive Mnemonic where
  | ora | and | eor | bit
  | asl | lsr | rol | ror
  | bpl | bmi | bvc | bvs | bcc | bcs | bne | beq
  | clc | sec | cli | sei | clv | cld | sed
  | adc | sbc | cmp | cpx | cpy | inc | dec | inx | iny | dex | dey
  | lda | ldx | ldy | sta | stx | sty | tax | tay | txa | tya | tsx | txs
  | pha | php | pla | plp | jmp | jsr | rts | rti | brk | nop
  deriving DecidableEq, Repr

/-- The 13 addressing modes (30_encoding.md R302), under the names of 40_addressing.md R405 to R416. -/
inductive Mode where
  | imp | acc | imm | zp | zpx | zpy | abs | abx | aby | ind | izx | izy | rel
  deriving DecidableEq, Repr

/-- An addressing mode with its operand as assembled from the operand bytes (30_encoding.md R302). -/
inductive Operand where
  | imp
  | acc
  | imm (n : Byte)
  | zp  (n : Byte)
  | zpx (n : Byte)
  | zpy (n : Byte)
  | abs (w : Word)
  | abx (w : Word)
  | aby (w : Word)
  | ind (w : Word)
  | izx (n : Byte)
  | izy (n : Byte)
  | rel (n : Byte)
  deriving DecidableEq, Repr

/-- The mode of an operand. -/
def Operand.mode : Operand → Mode
  | .imp => .imp
  | .acc => .acc
  | .imm _ => .imm
  | .zp _ => .zp
  | .zpx _ => .zpx
  | .zpy _ => .zpy
  | .abs _ => .abs
  | .abx _ => .abx
  | .aby _ => .aby
  | .ind _ => .ind
  | .izx _ => .izx
  | .izy _ => .izy
  | .rel _ => .rel

/-- The instructions: one constructor per row of the opcode map (30_encoding.md R303), grouped by the file of spec/ that
gives their meaning. The suffix is the addressing mode where a mnemonic has more than one. -/
inductive Instr where
  -- 41_logical.md: logical
  | oraImm (n : Byte) | oraZp (n : Byte) | oraZpx (n : Byte) | oraAbs (w : Word) | oraAbx (w : Word)
  | oraAby (w : Word) | oraIzx (n : Byte) | oraIzy (n : Byte)
  | andImm (n : Byte) | andZp (n : Byte) | andZpx (n : Byte) | andAbs (w : Word) | andAbx (w : Word)
  | andAby (w : Word) | andIzx (n : Byte) | andIzy (n : Byte)
  | eorImm (n : Byte) | eorZp (n : Byte) | eorZpx (n : Byte) | eorAbs (w : Word) | eorAbx (w : Word)
  | eorAby (w : Word) | eorIzx (n : Byte) | eorIzy (n : Byte)
  | bitZp (n : Byte) | bitAbs (w : Word)
  -- 42_shift.md: shifts and rotates
  | aslAcc | aslZp (n : Byte) | aslZpx (n : Byte) | aslAbs (w : Word) | aslAbx (w : Word)
  | lsrAcc | lsrZp (n : Byte) | lsrZpx (n : Byte) | lsrAbs (w : Word) | lsrAbx (w : Word)
  | rolAcc | rolZp (n : Byte) | rolZpx (n : Byte) | rolAbs (w : Word) | rolAbx (w : Word)
  | rorAcc | rorZp (n : Byte) | rorZpx (n : Byte) | rorAbs (w : Word) | rorAbx (w : Word)
  -- 43_branch.md: conditional branches
  | bpl (n : Byte)
  | bmi (n : Byte)
  | bvc (n : Byte)
  | bvs (n : Byte)
  | bcc (n : Byte)
  | bcs (n : Byte)
  | bne (n : Byte)
  | beq (n : Byte)
  -- 44_flags.md: flag instructions
  | clc
  | sec
  | cli
  | sei
  | clv
  | cld
  | sed
  -- 45_arith.md: arithmetic, compare, increment, decrement
  | adcImm (n : Byte) | adcZp (n : Byte) | adcZpx (n : Byte) | adcAbs (w : Word) | adcAbx (w : Word)
  | adcAby (w : Word) | adcIzx (n : Byte) | adcIzy (n : Byte)
  | sbcImm (n : Byte) | sbcZp (n : Byte) | sbcZpx (n : Byte) | sbcAbs (w : Word) | sbcAbx (w : Word)
  | sbcAby (w : Word) | sbcIzx (n : Byte) | sbcIzy (n : Byte)
  | cmpImm (n : Byte) | cmpZp (n : Byte) | cmpZpx (n : Byte) | cmpAbs (w : Word) | cmpAbx (w : Word)
  | cmpAby (w : Word) | cmpIzx (n : Byte) | cmpIzy (n : Byte)
  | cpxImm (n : Byte) | cpxZp (n : Byte) | cpxAbs (w : Word)
  | cpyImm (n : Byte) | cpyZp (n : Byte) | cpyAbs (w : Word)
  | incZp (n : Byte) | incZpx (n : Byte) | incAbs (w : Word) | incAbx (w : Word)
  | decZp (n : Byte) | decZpx (n : Byte) | decAbs (w : Word) | decAbx (w : Word)
  | inx
  | iny
  | dex
  | dey
  -- 46_load_store.md: loads, stores, transfers
  | ldaImm (n : Byte) | ldaZp (n : Byte) | ldaZpx (n : Byte) | ldaAbs (w : Word) | ldaAbx (w : Word)
  | ldaAby (w : Word) | ldaIzx (n : Byte) | ldaIzy (n : Byte)
  | ldxImm (n : Byte) | ldxZp (n : Byte) | ldxZpy (n : Byte) | ldxAbs (w : Word) | ldxAby (w : Word)
  | ldyImm (n : Byte) | ldyZp (n : Byte) | ldyZpx (n : Byte) | ldyAbs (w : Word) | ldyAbx (w : Word)
  | staZp (n : Byte) | staZpx (n : Byte) | staAbs (w : Word) | staAbx (w : Word) | staAby (w : Word)
  | staIzx (n : Byte) | staIzy (n : Byte)
  | stxZp (n : Byte) | stxZpy (n : Byte) | stxAbs (w : Word)
  | styZp (n : Byte) | styZpx (n : Byte) | styAbs (w : Word)
  | tax
  | tay
  | txa
  | tya
  | tsx
  | txs
  -- 47_stack_jump.md: stack, jumps, BRK, RTI, NOP
  | pha
  | php
  | pla
  | plp
  | jmpAbs (w : Word) | jmpInd (w : Word)
  | jsr (w : Word)
  | rts
  | rti
  | brk
  | nop
  deriving DecidableEq, Repr

/-- The mnemonic of an instruction's row. -/
def Instr.mnemonic : Instr → Mnemonic
  | .oraImm _ | .oraZp _ | .oraZpx _ | .oraAbs _ | .oraAbx _ | .oraAby _ | .oraIzx _ | .oraIzy _ => .ora
  | .andImm _ | .andZp _ | .andZpx _ | .andAbs _ | .andAbx _ | .andAby _ | .andIzx _ | .andIzy _ => .and
  | .eorImm _ | .eorZp _ | .eorZpx _ | .eorAbs _ | .eorAbx _ | .eorAby _ | .eorIzx _ | .eorIzy _ => .eor
  | .bitZp _ | .bitAbs _ => .bit
  | .aslAcc | .aslZp _ | .aslZpx _ | .aslAbs _ | .aslAbx _ => .asl
  | .lsrAcc | .lsrZp _ | .lsrZpx _ | .lsrAbs _ | .lsrAbx _ => .lsr
  | .rolAcc | .rolZp _ | .rolZpx _ | .rolAbs _ | .rolAbx _ => .rol
  | .rorAcc | .rorZp _ | .rorZpx _ | .rorAbs _ | .rorAbx _ => .ror
  | .bpl _ => .bpl
  | .bmi _ => .bmi
  | .bvc _ => .bvc
  | .bvs _ => .bvs
  | .bcc _ => .bcc
  | .bcs _ => .bcs
  | .bne _ => .bne
  | .beq _ => .beq
  | .clc => .clc
  | .sec => .sec
  | .cli => .cli
  | .sei => .sei
  | .clv => .clv
  | .cld => .cld
  | .sed => .sed
  | .adcImm _ | .adcZp _ | .adcZpx _ | .adcAbs _ | .adcAbx _ | .adcAby _ | .adcIzx _ | .adcIzy _ => .adc
  | .sbcImm _ | .sbcZp _ | .sbcZpx _ | .sbcAbs _ | .sbcAbx _ | .sbcAby _ | .sbcIzx _ | .sbcIzy _ => .sbc
  | .cmpImm _ | .cmpZp _ | .cmpZpx _ | .cmpAbs _ | .cmpAbx _ | .cmpAby _ | .cmpIzx _ | .cmpIzy _ => .cmp
  | .cpxImm _ | .cpxZp _ | .cpxAbs _ => .cpx
  | .cpyImm _ | .cpyZp _ | .cpyAbs _ => .cpy
  | .incZp _ | .incZpx _ | .incAbs _ | .incAbx _ => .inc
  | .decZp _ | .decZpx _ | .decAbs _ | .decAbx _ => .dec
  | .inx => .inx
  | .iny => .iny
  | .dex => .dex
  | .dey => .dey
  | .ldaImm _ | .ldaZp _ | .ldaZpx _ | .ldaAbs _ | .ldaAbx _ | .ldaAby _ | .ldaIzx _ | .ldaIzy _ => .lda
  | .ldxImm _ | .ldxZp _ | .ldxZpy _ | .ldxAbs _ | .ldxAby _ => .ldx
  | .ldyImm _ | .ldyZp _ | .ldyZpx _ | .ldyAbs _ | .ldyAbx _ => .ldy
  | .staZp _ | .staZpx _ | .staAbs _ | .staAbx _ | .staAby _ | .staIzx _ | .staIzy _ => .sta
  | .stxZp _ | .stxZpy _ | .stxAbs _ => .stx
  | .styZp _ | .styZpx _ | .styAbs _ => .sty
  | .tax => .tax
  | .tay => .tay
  | .txa => .txa
  | .tya => .tya
  | .tsx => .tsx
  | .txs => .txs
  | .pha => .pha
  | .php => .php
  | .pla => .pla
  | .plp => .plp
  | .jmpAbs _ | .jmpInd _ => .jmp
  | .jsr _ => .jsr
  | .rts => .rts
  | .rti => .rti
  | .brk => .brk
  | .nop => .nop

/-- The addressing mode and operand of an instruction's row. -/
def Instr.operand : Instr → Operand
  | .oraImm n => .imm n
  | .oraZp n => .zp n
  | .oraZpx n => .zpx n
  | .oraAbs w => .abs w
  | .oraAbx w => .abx w
  | .oraAby w => .aby w
  | .oraIzx n => .izx n
  | .oraIzy n => .izy n
  | .andImm n => .imm n
  | .andZp n => .zp n
  | .andZpx n => .zpx n
  | .andAbs w => .abs w
  | .andAbx w => .abx w
  | .andAby w => .aby w
  | .andIzx n => .izx n
  | .andIzy n => .izy n
  | .eorImm n => .imm n
  | .eorZp n => .zp n
  | .eorZpx n => .zpx n
  | .eorAbs w => .abs w
  | .eorAbx w => .abx w
  | .eorAby w => .aby w
  | .eorIzx n => .izx n
  | .eorIzy n => .izy n
  | .bitZp n => .zp n
  | .bitAbs w => .abs w
  | .aslAcc => .acc
  | .aslZp n => .zp n
  | .aslZpx n => .zpx n
  | .aslAbs w => .abs w
  | .aslAbx w => .abx w
  | .lsrAcc => .acc
  | .lsrZp n => .zp n
  | .lsrZpx n => .zpx n
  | .lsrAbs w => .abs w
  | .lsrAbx w => .abx w
  | .rolAcc => .acc
  | .rolZp n => .zp n
  | .rolZpx n => .zpx n
  | .rolAbs w => .abs w
  | .rolAbx w => .abx w
  | .rorAcc => .acc
  | .rorZp n => .zp n
  | .rorZpx n => .zpx n
  | .rorAbs w => .abs w
  | .rorAbx w => .abx w
  | .bpl n => .rel n
  | .bmi n => .rel n
  | .bvc n => .rel n
  | .bvs n => .rel n
  | .bcc n => .rel n
  | .bcs n => .rel n
  | .bne n => .rel n
  | .beq n => .rel n
  | .clc => .imp
  | .sec => .imp
  | .cli => .imp
  | .sei => .imp
  | .clv => .imp
  | .cld => .imp
  | .sed => .imp
  | .adcImm n => .imm n
  | .adcZp n => .zp n
  | .adcZpx n => .zpx n
  | .adcAbs w => .abs w
  | .adcAbx w => .abx w
  | .adcAby w => .aby w
  | .adcIzx n => .izx n
  | .adcIzy n => .izy n
  | .sbcImm n => .imm n
  | .sbcZp n => .zp n
  | .sbcZpx n => .zpx n
  | .sbcAbs w => .abs w
  | .sbcAbx w => .abx w
  | .sbcAby w => .aby w
  | .sbcIzx n => .izx n
  | .sbcIzy n => .izy n
  | .cmpImm n => .imm n
  | .cmpZp n => .zp n
  | .cmpZpx n => .zpx n
  | .cmpAbs w => .abs w
  | .cmpAbx w => .abx w
  | .cmpAby w => .aby w
  | .cmpIzx n => .izx n
  | .cmpIzy n => .izy n
  | .cpxImm n => .imm n
  | .cpxZp n => .zp n
  | .cpxAbs w => .abs w
  | .cpyImm n => .imm n
  | .cpyZp n => .zp n
  | .cpyAbs w => .abs w
  | .incZp n => .zp n
  | .incZpx n => .zpx n
  | .incAbs w => .abs w
  | .incAbx w => .abx w
  | .decZp n => .zp n
  | .decZpx n => .zpx n
  | .decAbs w => .abs w
  | .decAbx w => .abx w
  | .inx => .imp
  | .iny => .imp
  | .dex => .imp
  | .dey => .imp
  | .ldaImm n => .imm n
  | .ldaZp n => .zp n
  | .ldaZpx n => .zpx n
  | .ldaAbs w => .abs w
  | .ldaAbx w => .abx w
  | .ldaAby w => .aby w
  | .ldaIzx n => .izx n
  | .ldaIzy n => .izy n
  | .ldxImm n => .imm n
  | .ldxZp n => .zp n
  | .ldxZpy n => .zpy n
  | .ldxAbs w => .abs w
  | .ldxAby w => .aby w
  | .ldyImm n => .imm n
  | .ldyZp n => .zp n
  | .ldyZpx n => .zpx n
  | .ldyAbs w => .abs w
  | .ldyAbx w => .abx w
  | .staZp n => .zp n
  | .staZpx n => .zpx n
  | .staAbs w => .abs w
  | .staAbx w => .abx w
  | .staAby w => .aby w
  | .staIzx n => .izx n
  | .staIzy n => .izy n
  | .stxZp n => .zp n
  | .stxZpy n => .zpy n
  | .stxAbs w => .abs w
  | .styZp n => .zp n
  | .styZpx n => .zpx n
  | .styAbs w => .abs w
  | .tax => .imp
  | .tay => .imp
  | .txa => .imp
  | .tya => .imp
  | .tsx => .imp
  | .txs => .imp
  | .pha => .imp
  | .php => .imp
  | .pla => .imp
  | .plp => .imp
  | .jmpAbs w => .abs w
  | .jmpInd w => .ind w
  | .jsr w => .abs w
  | .rts => .imp
  | .rti => .imp
  | .brk => .imp
  | .nop => .imp

end Sys2Proof
end

