-- ==== Sys2Proof/Decode.lean ====
section
/-! DEFINITION. The decoder, written from the opcode map (30_encoding.md R303), total on any bytes and rejecting by name,
and after it the encoder, written from the encodings of the instruction rules. The byte-order helpers stand here too. -/

namespace Sys2Proof

/-- (hi ++ lo) of two bytes, the word hi * 256 + lo (00_scope.md R13). -/
def joinBytes (hi lo : Byte) : Word := hi ++ lo

/-- The low byte of a word: the first of its two bytes in memory (20_memory.md R201). -/
def lowByte (w : Word) : Byte := w.setWidth 8

/-- The high byte of a word: the second of its two bytes in memory (20_memory.md R201). -/
def highByte (w : Word) : Byte := (w >>> 8).setWidth 8

/-- A row of the opcode map by its format (30_encoding.md R300): F1 has no operand byte, F2 one, F3 a low and a high one. -/
inductive OpForm where
  | f1 (i : Instr)
  | f2 (f : Byte → Instr)
  | f3 (f : Word → Instr)

/-- Row 0x of the opcode map (30_encoding.md R303). -/
def mapRow0 : List (Nat × OpForm) :=
  [(0x00, .f1 .brk), (0x01, .f2 .oraIzx), (0x05, .f2 .oraZp), (0x06, .f2 .aslZp), (0x08, .f1 .php),
   (0x09, .f2 .oraImm), (0x0A, .f1 .aslAcc), (0x0D, .f3 .oraAbs), (0x0E, .f3 .aslAbs)]

/-- Row 1x of the opcode map (30_encoding.md R303). -/
def mapRow1 : List (Nat × OpForm) :=
  [(0x10, .f2 .bpl), (0x11, .f2 .oraIzy), (0x15, .f2 .oraZpx), (0x16, .f2 .aslZpx), (0x18, .f1 .clc),
   (0x19, .f3 .oraAby), (0x1D, .f3 .oraAbx), (0x1E, .f3 .aslAbx)]

/-- Row 2x of the opcode map (30_encoding.md R303). -/
def mapRow2 : List (Nat × OpForm) :=
  [(0x20, .f3 .jsr), (0x21, .f2 .andIzx), (0x24, .f2 .bitZp), (0x25, .f2 .andZp), (0x26, .f2 .rolZp),
   (0x28, .f1 .plp), (0x29, .f2 .andImm), (0x2A, .f1 .rolAcc), (0x2C, .f3 .bitAbs), (0x2D, .f3 .andAbs),
   (0x2E, .f3 .rolAbs)]

/-- Row 3x of the opcode map (30_encoding.md R303). -/
def mapRow3 : List (Nat × OpForm) :=
  [(0x30, .f2 .bmi), (0x31, .f2 .andIzy), (0x35, .f2 .andZpx), (0x36, .f2 .rolZpx), (0x38, .f1 .sec),
   (0x39, .f3 .andAby), (0x3D, .f3 .andAbx), (0x3E, .f3 .rolAbx)]

/-- Row 4x of the opcode map (30_encoding.md R303). -/
def mapRow4 : List (Nat × OpForm) :=
  [(0x40, .f1 .rti), (0x41, .f2 .eorIzx), (0x45, .f2 .eorZp), (0x46, .f2 .lsrZp), (0x48, .f1 .pha),
   (0x49, .f2 .eorImm), (0x4A, .f1 .lsrAcc), (0x4C, .f3 .jmpAbs), (0x4D, .f3 .eorAbs), (0x4E, .f3 .lsrAbs)]

/-- Row 5x of the opcode map (30_encoding.md R303). -/
def mapRow5 : List (Nat × OpForm) :=
  [(0x50, .f2 .bvc), (0x51, .f2 .eorIzy), (0x55, .f2 .eorZpx), (0x56, .f2 .lsrZpx), (0x58, .f1 .cli),
   (0x59, .f3 .eorAby), (0x5D, .f3 .eorAbx), (0x5E, .f3 .lsrAbx)]

/-- Row 6x of the opcode map (30_encoding.md R303). -/
def mapRow6 : List (Nat × OpForm) :=
  [(0x60, .f1 .rts), (0x61, .f2 .adcIzx), (0x65, .f2 .adcZp), (0x66, .f2 .rorZp), (0x68, .f1 .pla),
   (0x69, .f2 .adcImm), (0x6A, .f1 .rorAcc), (0x6C, .f3 .jmpInd), (0x6D, .f3 .adcAbs), (0x6E, .f3 .rorAbs)]

/-- Row 7x of the opcode map (30_encoding.md R303). -/
def mapRow7 : List (Nat × OpForm) :=
  [(0x70, .f2 .bvs), (0x71, .f2 .adcIzy), (0x75, .f2 .adcZpx), (0x76, .f2 .rorZpx), (0x78, .f1 .sei),
   (0x79, .f3 .adcAby), (0x7D, .f3 .adcAbx), (0x7E, .f3 .rorAbx)]

/-- Row 8x of the opcode map (30_encoding.md R303). -/
def mapRow8 : List (Nat × OpForm) :=
  [(0x81, .f2 .staIzx), (0x84, .f2 .styZp), (0x85, .f2 .staZp), (0x86, .f2 .stxZp), (0x88, .f1 .dey),
   (0x8A, .f1 .txa), (0x8C, .f3 .styAbs), (0x8D, .f3 .staAbs), (0x8E, .f3 .stxAbs)]

/-- Row 9x of the opcode map (30_encoding.md R303). -/
def mapRow9 : List (Nat × OpForm) :=
  [(0x90, .f2 .bcc), (0x91, .f2 .staIzy), (0x94, .f2 .styZpx), (0x95, .f2 .staZpx), (0x96, .f2 .stxZpy),
   (0x98, .f1 .tya), (0x99, .f3 .staAby), (0x9A, .f1 .txs), (0x9D, .f3 .staAbx)]

/-- Row Ax of the opcode map (30_encoding.md R303). -/
def mapRowA : List (Nat × OpForm) :=
  [(0xA0, .f2 .ldyImm), (0xA1, .f2 .ldaIzx), (0xA2, .f2 .ldxImm), (0xA4, .f2 .ldyZp), (0xA5, .f2 .ldaZp),
   (0xA6, .f2 .ldxZp), (0xA8, .f1 .tay), (0xA9, .f2 .ldaImm), (0xAA, .f1 .tax), (0xAC, .f3 .ldyAbs),
   (0xAD, .f3 .ldaAbs), (0xAE, .f3 .ldxAbs)]

/-- Row Bx of the opcode map (30_encoding.md R303). -/
def mapRowB : List (Nat × OpForm) :=
  [(0xB0, .f2 .bcs), (0xB1, .f2 .ldaIzy), (0xB4, .f2 .ldyZpx), (0xB5, .f2 .ldaZpx), (0xB6, .f2 .ldxZpy),
   (0xB8, .f1 .clv), (0xB9, .f3 .ldaAby), (0xBA, .f1 .tsx), (0xBC, .f3 .ldyAbx), (0xBD, .f3 .ldaAbx),
   (0xBE, .f3 .ldxAby)]

/-- Row Cx of the opcode map (30_encoding.md R303). -/
def mapRowC : List (Nat × OpForm) :=
  [(0xC0, .f2 .cpyImm), (0xC1, .f2 .cmpIzx), (0xC4, .f2 .cpyZp), (0xC5, .f2 .cmpZp), (0xC6, .f2 .decZp),
   (0xC8, .f1 .iny), (0xC9, .f2 .cmpImm), (0xCA, .f1 .dex), (0xCC, .f3 .cpyAbs), (0xCD, .f3 .cmpAbs),
   (0xCE, .f3 .decAbs)]

/-- Row Dx of the opcode map (30_encoding.md R303). -/
def mapRowD : List (Nat × OpForm) :=
  [(0xD0, .f2 .bne), (0xD1, .f2 .cmpIzy), (0xD5, .f2 .cmpZpx), (0xD6, .f2 .decZpx), (0xD8, .f1 .cld),
   (0xD9, .f3 .cmpAby), (0xDD, .f3 .cmpAbx), (0xDE, .f3 .decAbx)]

/-- Row Ex of the opcode map (30_encoding.md R303). -/
def mapRowE : List (Nat × OpForm) :=
  [(0xE0, .f2 .cpxImm), (0xE1, .f2 .sbcIzx), (0xE4, .f2 .cpxZp), (0xE5, .f2 .sbcZp), (0xE6, .f2 .incZp),
   (0xE8, .f1 .inx), (0xE9, .f2 .sbcImm), (0xEA, .f1 .nop), (0xEC, .f3 .cpxAbs), (0xED, .f3 .sbcAbs),
   (0xEE, .f3 .incAbs)]

/-- Row Fx of the opcode map (30_encoding.md R303). -/
def mapRowF : List (Nat × OpForm) :=
  [(0xF0, .f2 .beq), (0xF1, .f2 .sbcIzy), (0xF5, .f2 .sbcZpx), (0xF6, .f2 .incZpx), (0xF8, .f1 .sed),
   (0xF9, .f3 .sbcAby), (0xFD, .f3 .sbcAbx), (0xFE, .f3 .incAbx)]

/-- The opcode map: the 151 defined bytes (30_encoding.md R303). A byte with no row is undefined (R304). -/
def opcodeMap : List (Nat × OpForm) :=
  mapRow0 ++ mapRow1 ++ mapRow2 ++ mapRow3 ++ mapRow4 ++ mapRow5 ++ mapRow6 ++ mapRow7 ++
  mapRow8 ++ mapRow9 ++ mapRowA ++ mapRowB ++ mapRowC ++ mapRowD ++ mapRowE ++ mapRowF

/-- The row of an opcode byte in a list of rows. -/
def findForm (op : Nat) : List (Nat × OpForm) → Option OpForm
  | [] => none
  | (k, f) :: rows => if k = op then some f else findForm op rows

/-- Dispatch (40_addressing.md R403): the row of an opcode byte, or none where the byte is undefined. -/
def opForm (op : Byte) : Option OpForm := findForm op.toNat opcodeMap

/-- What the decoder answers. -/
inductive Decoded where
  /-- The instruction the bytes begin with, and the bytes after it. -/
  | ok (i : Instr) (rest : List Byte)
  /-- The first byte has no row in the opcode map (30_encoding.md R304). -/
  | undefinedOpcode (op : Byte)
  /-- There is no byte, or the bytes end inside the instruction that begins with this opcode
  (log 19). -/
  | truncated
  deriving DecidableEq, Repr

/-- The decoder (30_encoding.md R301): the first byte selects the row, the row's format the length; an absolute operand has
its low byte first (R302, 20_memory.md R201). -/
def decode : List Byte → Decoded
  | [] => .truncated
  | op :: bytes =>
    match opForm op with
    | none => .undefinedOpcode op
    | some (.f1 i) => .ok i bytes
    | some (.f2 f) =>
      match bytes with
      | n :: rest => .ok (f n) rest
      | _ => .truncated
    | some (.f3 f) =>
      match bytes with
      | lo :: hi :: rest => .ok (f (joinBytes hi lo)) rest
      | _ => .truncated

/-- The instruction the decoder reads from an instruction whose bits are w, numbered as spec/opcode_table.json numbers them:
the first byte in bits 7..0, the second in bits 15..8, the third in bits 23..16; the bits from nbits up are 0. -/
def decodeTableWord (nbits w : Nat) : Option Instr :=
  if nbits < 8 then none
  else
    let v := w % 2 ^ nbits
    match decode [BitVec.ofNat 8 v, BitVec.ofNat 8 (v / 256), BitVec.ofNat 8 (v / 65536)] with
    | .ok i _ => some i
    | .undefinedOpcode _ => none
    | .truncated => none

/-- The opcode byte of an instruction, from the "Encodings" lines of the instruction rules. -/
def Instr.opcode : Instr → Byte
  | .oraImm _ => 0x09#8
  | .oraZp _ => 0x05#8
  | .oraZpx _ => 0x15#8
  | .oraAbs _ => 0x0D#8
  | .oraAbx _ => 0x1D#8
  | .oraAby _ => 0x19#8
  | .oraIzx _ => 0x01#8
  | .oraIzy _ => 0x11#8
  | .andImm _ => 0x29#8
  | .andZp _ => 0x25#8
  | .andZpx _ => 0x35#8
  | .andAbs _ => 0x2D#8
  | .andAbx _ => 0x3D#8
  | .andAby _ => 0x39#8
  | .andIzx _ => 0x21#8
  | .andIzy _ => 0x31#8
  | .eorImm _ => 0x49#8
  | .eorZp _ => 0x45#8
  | .eorZpx _ => 0x55#8
  | .eorAbs _ => 0x4D#8
  | .eorAbx _ => 0x5D#8
  | .eorAby _ => 0x59#8
  | .eorIzx _ => 0x41#8
  | .eorIzy _ => 0x51#8
  | .bitZp _ => 0x24#8
  | .bitAbs _ => 0x2C#8
  | .aslAcc => 0x0A#8
  | .aslZp _ => 0x06#8
  | .aslZpx _ => 0x16#8
  | .aslAbs _ => 0x0E#8
  | .aslAbx _ => 0x1E#8
  | .lsrAcc => 0x4A#8
  | .lsrZp _ => 0x46#8
  | .lsrZpx _ => 0x56#8
  | .lsrAbs _ => 0x4E#8
  | .lsrAbx _ => 0x5E#8
  | .rolAcc => 0x2A#8
  | .rolZp _ => 0x26#8
  | .rolZpx _ => 0x36#8
  | .rolAbs _ => 0x2E#8
  | .rolAbx _ => 0x3E#8
  | .rorAcc => 0x6A#8
  | .rorZp _ => 0x66#8
  | .rorZpx _ => 0x76#8
  | .rorAbs _ => 0x6E#8
  | .rorAbx _ => 0x7E#8
  | .bpl _ => 0x10#8
  | .bmi _ => 0x30#8
  | .bvc _ => 0x50#8
  | .bvs _ => 0x70#8
  | .bcc _ => 0x90#8
  | .bcs _ => 0xB0#8
  | .bne _ => 0xD0#8
  | .beq _ => 0xF0#8
  | .clc => 0x18#8
  | .sec => 0x38#8
  | .cli => 0x58#8
  | .sei => 0x78#8
  | .clv => 0xB8#8
  | .cld => 0xD8#8
  | .sed => 0xF8#8
  | .adcImm _ => 0x69#8
  | .adcZp _ => 0x65#8
  | .adcZpx _ => 0x75#8
  | .adcAbs _ => 0x6D#8
  | .adcAbx _ => 0x7D#8
  | .adcAby _ => 0x79#8
  | .adcIzx _ => 0x61#8
  | .adcIzy _ => 0x71#8
  | .sbcImm _ => 0xE9#8
  | .sbcZp _ => 0xE5#8
  | .sbcZpx _ => 0xF5#8
  | .sbcAbs _ => 0xED#8
  | .sbcAbx _ => 0xFD#8
  | .sbcAby _ => 0xF9#8
  | .sbcIzx _ => 0xE1#8
  | .sbcIzy _ => 0xF1#8
  | .cmpImm _ => 0xC9#8
  | .cmpZp _ => 0xC5#8
  | .cmpZpx _ => 0xD5#8
  | .cmpAbs _ => 0xCD#8
  | .cmpAbx _ => 0xDD#8
  | .cmpAby _ => 0xD9#8
  | .cmpIzx _ => 0xC1#8
  | .cmpIzy _ => 0xD1#8
  | .cpxImm _ => 0xE0#8
  | .cpxZp _ => 0xE4#8
  | .cpxAbs _ => 0xEC#8
  | .cpyImm _ => 0xC0#8
  | .cpyZp _ => 0xC4#8
  | .cpyAbs _ => 0xCC#8
  | .incZp _ => 0xE6#8
  | .incZpx _ => 0xF6#8
  | .incAbs _ => 0xEE#8
  | .incAbx _ => 0xFE#8
  | .decZp _ => 0xC6#8
  | .decZpx _ => 0xD6#8
  | .decAbs _ => 0xCE#8
  | .decAbx _ => 0xDE#8
  | .inx => 0xE8#8
  | .iny => 0xC8#8
  | .dex => 0xCA#8
  | .dey => 0x88#8
  | .ldaImm _ => 0xA9#8
  | .ldaZp _ => 0xA5#8
  | .ldaZpx _ => 0xB5#8
  | .ldaAbs _ => 0xAD#8
  | .ldaAbx _ => 0xBD#8
  | .ldaAby _ => 0xB9#8
  | .ldaIzx _ => 0xA1#8
  | .ldaIzy _ => 0xB1#8
  | .ldxImm _ => 0xA2#8
  | .ldxZp _ => 0xA6#8
  | .ldxZpy _ => 0xB6#8
  | .ldxAbs _ => 0xAE#8
  | .ldxAby _ => 0xBE#8
  | .ldyImm _ => 0xA0#8
  | .ldyZp _ => 0xA4#8
  | .ldyZpx _ => 0xB4#8
  | .ldyAbs _ => 0xAC#8
  | .ldyAbx _ => 0xBC#8
  | .staZp _ => 0x85#8
  | .staZpx _ => 0x95#8
  | .staAbs _ => 0x8D#8
  | .staAbx _ => 0x9D#8
  | .staAby _ => 0x99#8
  | .staIzx _ => 0x81#8
  | .staIzy _ => 0x91#8
  | .stxZp _ => 0x86#8
  | .stxZpy _ => 0x96#8
  | .stxAbs _ => 0x8E#8
  | .styZp _ => 0x84#8
  | .styZpx _ => 0x94#8
  | .styAbs _ => 0x8C#8
  | .tax => 0xAA#8
  | .tay => 0xA8#8
  | .txa => 0x8A#8
  | .tya => 0x98#8
  | .tsx => 0xBA#8
  | .txs => 0x9A#8
  | .pha => 0x48#8
  | .php => 0x08#8
  | .pla => 0x68#8
  | .plp => 0x28#8
  | .jmpAbs _ => 0x4C#8
  | .jmpInd _ => 0x6C#8
  | .jsr _ => 0x20#8
  | .rts => 0x60#8
  | .rti => 0x40#8
  | .brk => 0x00#8
  | .nop => 0xEA#8

/-- The operand bytes of an operand in the order they stand after the opcode (30_encoding.md R300, R302). -/
def Operand.bytes : Operand → List Byte
  | .imp => []
  | .acc => []
  | .imm n => [n]
  | .zp n => [n]
  | .zpx n => [n]
  | .zpy n => [n]
  | .abs w => [lowByte w, highByte w]
  | .abx w => [lowByte w, highByte w]
  | .aby w => [lowByte w, highByte w]
  | .ind w => [lowByte w, highByte w]
  | .izx n => [n]
  | .izy n => [n]
  | .rel n => [n]

/-- The number of bytes of an instruction of this mode (30_encoding.md R300). -/
def Mode.length : Mode → Nat
  | .imp => 1
  | .acc => 1
  | .imm => 2
  | .zp => 2
  | .zpx => 2
  | .zpy => 2
  | .abs => 3
  | .abx => 3
  | .aby => 3
  | .ind => 3
  | .izx => 2
  | .izy => 2
  | .rel => 2

/-- The bytes of an instruction. -/
def encode (i : Instr) : List Byte := i.opcode :: i.operand.bytes

end Sys2Proof
end

