-- ==== Sys2Proof/Machine/Memory.lean ====
section
/-! DEFINITION. Storage as plain data: a list of (key, value) pairs in one canonical form, keys strictly rising and no entry
equal to what an unlisted key holds. The CPU memory, vram, oam and the frame buffer are four such lists; each says once
what an unlisted key holds: a fixed byte (some v), or nothing (none), which reads as a free value of INIT. -/

namespace Sys2Proof.Machine

/-- The value listed for a key. -/
def getCell {α : Type} (k : Nat) : List (Nat × α) → Option α
  | [] => none
  | (a, v) :: m => if a = k then some v else getCell k m

/-- Stores a value under a key and keeps the canonical form: where the value is what an unlisted key holds, the entry goes. -/
def putCell {α : Type} [DecidableEq α] (unlisted : Nat → Option α) (k : Nat) (v : α) : List (Nat × α) → List (Nat × α)
  | [] => if unlisted k = some v then [] else [(k, v)]
  | (a, w) :: m =>
    if k < a then (if unlisted k = some v then (a, w) :: m else (k, v) :: (a, w) :: m)
    else if k = a then (if unlisted k = some v then m else (k, v) :: m)
    else (a, w) :: putCell unlisted k v m

/-- The keys are strictly rising, all above a bound. -/
def risingFrom {α : Type} (bound : Nat) : List (Nat × α) → Bool
  | [] => true
  | (a, _) :: m => decide (bound ≤ a) && risingFrom (a + 1) m

/-- The canonical form: keys strictly rising, and no entry equal to what an unlisted key holds. -/
def canonicalCells {α : Type} [DecidableEq α] (unlisted : Nat → Option α) (m : List (Nat × α)) : Bool :=
  risingFrom 0 m && m.all (fun c => !decide (unlisted c.1 = some c.2))

/-- What a key reads as: its entry, else the fixed value of an unlisted key, else the free value. -/
def readCell {α : Type} (unlisted : Nat → Option α) (free : Nat → α) (m : List (Nat × α)) (k : Nat) : α :=
  match getCell k m with
  | some v => v
  | none =>
    match unlisted k with
    | some v => v
    | none => free k

/-- The CPU memory: the bytes of CPU RAM and of cartridge space (20_memory.md R206, R208), keyed by cell address. -/
abbrev Memory := List Host.Cell

/-- What an unlisted cell of the CPU memory holds: in RAM nothing fixed (10_state.md R150, a draw of INIT; log 2), in
cartridge space $00, the cartridge with nothing in it (log 3). -/
def memUnlisted (k : Nat) : Option Byte := if k ≤ 0x1FFF then none else some 0

/-- The byte of a cell of the CPU memory. -/
def memGet (m : Memory) (k : Nat) : Byte := readCell memUnlisted Config.initRam m k

/-- Stores a byte in a cell of the CPU memory. -/
def memPut (k : Nat) (v : Byte) (m : Memory) : Memory := putCell memUnlisted k v m

/-- The canonical form of the CPU memory. -/
def Memory.wf (m : Memory) : Bool := canonicalCells memUnlisted m

/-- What an unlisted cell of vram holds: in the pattern region $00, the cartridge with nothing in it (log 3), elsewhere
nothing fixed (10_state.md R150, a draw of INIT; log 4). -/
def vramUnlisted (k : Nat) : Option Byte := if k ≤ 0x1FFF then some 0 else none

/-- The byte of a canonical cell of vram (10_state.md R130). -/
def vramGet (m : List Host.Cell) (k : Nat) : Byte := readCell vramUnlisted Config.initVram m k

/-- Stores a byte in a canonical cell of vram. -/
def vramPut (k : Nat) (v : Byte) (m : List Host.Cell) : List Host.Cell := putCell vramUnlisted k v m

/-- Nothing fixed at any key: oam and the frame buffer at power-on (10_state.md R150; log 4). -/
def noUnlisted {α : Type} (_ : Nat) : Option α := none

/-- The byte of OAM at an index (10_state.md R131). -/
def oamGet (m : List Host.Cell) (k : Nat) : Byte := readCell noUnlisted Config.initOam m k

/-- Stores a byte of OAM. -/
def oamPut (k : Nat) (v : Byte) (m : List Host.Cell) : List Host.Cell := putCell noUnlisted k v m

/-- The pixel of the frame buffer numbered 256 * y + x (10_state.md R142). -/
def fbGet (m : List (Nat × Pixel)) (k : Nat) : Pixel := readCell noUnlisted Config.initFb m k

/-- Stores a pixel of the frame buffer. -/
def fbPut (k : Nat) (px : Pixel) (m : List (Nat × Pixel)) : List (Nat × Pixel) := putCell noUnlisted k px m

end Sys2Proof.Machine
end

