-- ==== Sys2Proof/Machine/State.lean ====
section
/-! DEFINITION. The state of the CORE as plain data (10_state.md), the reasons a step can stop, and the state after reset. -/

namespace Sys2Proof.Machine

/-- Why the machine stops. -/
inductive Fault where
  /-- UndefinedOpcode(op, pc) (60_exceptions.md R1601): raised by the step whose opcode fetch at pc gives a byte op with no row
  in the opcode map, and answered again by every later step (R1602). As the spec says: neither safe nor unsafe; against NMOS
  silicon, which executes such bytes, it is safe (92_eei_decisions.md D2, D3). -/
  | undefinedOpcode (op : Byte) (pc : Word)
  deriving DecidableEq, Repr

/-- Why the model gives an instruction no meaning. -/
inductive Refusal where
  /-- An instruction whose meaning is not written yet: raised by an arm of exec that rejects it by name. Safe. No arm of this
  model raises it. -/
  | notModelled (mnemonic : String)
  deriving DecidableEq, Repr

/-- The six stored status flags (10_state.md R106). Bits 5 and 4 of P are not stored (R113). -/
structure Flags where
  n : Bool
  v : Bool
  d : Bool
  i : Bool
  z : Bool
  c : Bool
  deriving DecidableEq, Repr

/-- The nametable mirroring mode (10_state.md R132). -/
inductive Mirroring where
  | horizontal
  | vertical
  deriving DecidableEq, Repr

/-- The PPU's state (10_state.md R130 to R142). -/
structure Ppu where
  /-- `vram` (R130): the canonical cells of the PPU address space. -/
  vram : List Host.Cell
  /-- `oam` (R131). -/
  oam : List Host.Cell
  /-- `mirroring` (R132): fixed by the cartridge; no step changes it. -/
  mirroring : Mirroring
  /-- `ctrl` (R133). -/
  ctrl : Byte
  /-- `mask` (R134). -/
  mask : Byte
  /-- `status.vblank`, bit 7 (R135). -/
  vblank : Bool
  /-- `status.sprite0_hit`, bit 6 (R135). -/
  sprite0Hit : Bool
  /-- `status.sprite_overflow`, bit 5 (R135). -/
  spriteOverflow : Bool
  /-- `oam_addr` (R136). -/
  oamAddr : Byte
  /-- `vram_addr` (R137). -/
  vramAddr : BitVec 14
  /-- `read_buffer` (R138). -/
  readBuffer : Byte
  /-- `scroll_x` (R139). -/
  scrollX : Byte
  /-- `scroll_y` (R139). -/
  scrollY : Byte
  /-- `w`, the write toggle (R140): true when the next $2005 or $2006 write is the second half. -/
  w : Bool
  /-- `scanline` (R141; log 14). -/
  scanline : Nat
  /-- `fb` (R142): pixel (x, y) under the key 256 * y + x. -/
  fb : List (Nat × Pixel)
  deriving DecidableEq, Repr

/-- The state of the CORE (10_state.md R100). -/
structure State where
  /-- `A` (R101). -/
  a : Byte
  /-- `X` (R102). -/
  x : Byte
  /-- `Y` (R103). -/
  y : Byte
  /-- `S`, the stack pointer (R104). -/
  sp : Byte
  /-- `PC` (R105). -/
  pc : Word
  /-- `N V D I Z C` (R106). -/
  flags : Flags
  /-- `fault` (R116). -/
  fault : Option Fault
  /-- `nmi_pending` (R117). -/
  nmiPending : Bool
  /-- `irq_line` (R118). -/
  irqLine : Bool
  /-- The bytes of CPU RAM and cartridge space (20_memory.md R206, R208). -/
  mem : Memory
  /-- The PPU. -/
  ppu : Ppu
  /-- The parameter `RAM_MIRROR` (00_scope.md R11, 20_memory.md R206): no step changes it (log 5). -/
  ramMirror : Bool
  /-- The parameter `CART_WRITABLE` (00_scope.md R11, 20_memory.md R208): no step changes it (log 5). -/
  cartWritable : Bool
  /-- The MODEL's own: how many draws the steps have taken so far (00_scope.md R19; log 6). -/
  draws : Nat
  deriving DecidableEq, Repr

/-- The flags at power-on (10_state.md R150): I set, the others drawn (log 1). -/
def Flags.reset : Flags :=
  { n := Config.initN, v := Config.initV, d := Config.initD, i := true, z := Config.initZ, c := Config.initC }

/-- The PPU at power-on with an empty cartridge (10_state.md R150, 70_reset_and_hazards.md R1703; logs 1, 3, 4, 5). -/
def Ppu.reset : Ppu :=
  { vram := [], oam := [], mirroring := .horizontal, ctrl := 0, mask := 0, vblank := false, sprite0Hit := false,
    spriteOverflow := false, oamAddr := 0, vramAddr := 0, readBuffer := Config.initReadBuffer, scrollX := 0, scrollY := 0,
    w := false, scanline := 0, fb := [] }

/-- The machine right after power-on with an empty cartridge (10_state.md R150, 70_reset_and_hazards.md R1700): PC holds the
word at $FFFC. Machine/PowerOn.lean gives power-on for every cartridge. -/
def State.reset : State :=
  { a := Config.initA, x := Config.initX, y := Config.initY, sp := 0xFD,
    pc := joinBytes (memGet [] 0xFFFD) (memGet [] 0xFFFC), flags := Flags.reset, fault := none, nmiPending := false,
    irqLine := false, mem := [], ppu := Ppu.reset, ramMirror := false, cartWritable := true, draws := 0 }

/-- A <- v (00_scope.md R15). -/
def State.setA (s : State) (v : Byte) : State := { s with a := v }
/-- X <- v. -/
def State.setX (s : State) (v : Byte) : State := { s with x := v }
/-- Y <- v. -/
def State.setY (s : State) (v : Byte) : State := { s with y := v }
/-- S <- v. -/
def State.setSp (s : State) (v : Byte) : State := { s with sp := v }
/-- PC <- v. -/
def State.setPc (s : State) (v : Word) : State := { s with pc := v }
/-- The flags <- f. -/
def State.setFlags (s : State) (f : Flags) : State := { s with flags := f }
/-- fault <- f. -/
def State.setFault (s : State) (f : Option Fault) : State := { s with fault := f }
/-- nmi_pending <- b. -/
def State.setNmi (s : State) (b : Bool) : State := { s with nmiPending := b }
/-- irq_line <- b. -/
def State.setIrq (s : State) (b : Bool) : State := { s with irqLine := b }
/-- The CPU memory <- m. -/
def State.setMem (s : State) (m : Memory) : State := { s with mem := m }
/-- The PPU's state <- p. -/
def State.setPpu (s : State) (p : Ppu) : State := { s with ppu := p }
/-- The draw counter <- n. -/
def State.setDraws (s : State) (n : Nat) : State := { s with draws := n }

end Sys2Proof.Machine
end

