-- ==== Sys2Proof/Machine/Flags.lean ====
section
/-! DEFINITION. The status byte and every flag computation: packing and unpacking (10_state.md R106, R113), setNZ
(00_scope.md R15), the carry and overflow of ADC and SBC (45_arith.md R900 to R902), the compare law (R903), and the results
and carries of the shifts and rotates (42_shift.md R600 to R603). -/

namespace Sys2Proof.Machine

/-- A bit at a position of a byte. -/
def bitAt (b : Bool) (k : Nat) : Byte := if b then 1#8 <<< k else 0

/-- PackP(b): the status byte with bit 5 set and bit 4 the pusher's break bit (10_state.md R113). -/
def packP (b : Bool) (f : Flags) : Byte :=
  bitAt f.n 7 ||| bitAt f.v 6 ||| bitAt true 5 ||| bitAt b 4 ||| bitAt f.d 3 ||| bitAt f.i 2 ||| bitAt f.z 1 ||| bitAt f.c 0

/-- UnpackP(v): the six stored flags from a byte, bits 5 and 4 ignored (10_state.md R113). -/
def unpackP (v : Byte) : Flags :=
  { n := v.getLsbD 7, v := v.getLsbD 6, d := v.getLsbD 3, i := v.getLsbD 2, z := v.getLsbD 1, c := v.getLsbD 0 }

/-- setNZ(v): N <- v[7], Z <- (v == 0) (00_scope.md R15). -/
def setNZ (f : Flags) (v : Byte) : Flags := { f with n := v.getLsbD 7, z := decide (v = 0) }

/-- setNZ(r) with C <- c. -/
def setNZC (f : Flags) (r : Byte) (c : Bool) : Flags := setNZ { f with c := c } r

/-- A flag as the number 0 or 1. -/
def bitNat (b : Bool) : Nat := if b then 1 else 0

/-- The result, C and V of ADC (45_arith.md R901): the sum is an unbounded integer. -/
def adcResult (a m : Byte) (c : Bool) : Byte := BitVec.ofNat 8 (a.toNat + m.toNat + bitNat c)
/-- C of ADC: sum > 255 (45_arith.md R901). -/
def adcCarry (a m : Byte) (c : Bool) : Bool := decide (a.toNat + m.toNat + bitNat c > 255)
/-- V of ADC: operands of equal sign, result of the other sign (45_arith.md R901). -/
def adcOverflow (a m : Byte) (c : Bool) : Bool := decide ((~~~(a ^^^ m) &&& (a ^^^ adcResult a m c) &&& 0x80) ≠ 0)
/-- The flags after ADC (45_arith.md R901); D is not read (R913). -/
def adcFlags (f : Flags) (a m : Byte) : Flags :=
  setNZ { f with v := adcOverflow a m f.c, c := adcCarry a m f.c } (adcResult a m f.c)

/-- A - M - (1 - C) as an unbounded integer (45_arith.md R902). -/
def sbcDiff (a m : Byte) (c : Bool) : Int := (a.toNat : Int) - (m.toNat : Int) - (1 - (bitNat c : Int))
/-- The result of SBC: the difference modulo 256 (45_arith.md R902). -/
def sbcResult (a m : Byte) (c : Bool) : Byte := BitVec.ofInt 8 (sbcDiff a m c)
/-- C of SBC: no borrow (45_arith.md R902). -/
def sbcCarry (a m : Byte) (c : Bool) : Bool := decide (sbcDiff a m c ≥ 0)
/-- V of SBC: operands of different sign, result of M's sign (45_arith.md R902). -/
def sbcOverflow (a m : Byte) (c : Bool) : Bool := decide (((a ^^^ m) &&& (a ^^^ sbcResult a m c) &&& 0x80) ≠ 0)
/-- The flags after SBC (45_arith.md R902); D is not read (R913). -/
def sbcFlags (f : Flags) (a m : Byte) : Flags :=
  setNZ { f with v := sbcOverflow a m f.c, c := sbcCarry a m f.c } (sbcResult a m f.c)

/-- Compare(R, M) (45_arith.md R903): V is unchanged. -/
def compareFlags (f : Flags) (r m : Byte) : Flags :=
  { f with c := decide (r.toNat ≥ m.toNat), z := decide (r = m), n := (r - m).getLsbD 7 }

/-- BIT: Z from A & M, N and V from the memory byte (41_logical.md R503). -/
def bitFlags (f : Flags) (a m : Byte) : Flags :=
  { f with z := decide (a &&& m = 0), n := m.getLsbD 7, v := m.getLsbD 6 }

/-- ASL's result: bit 0 becomes 0 (42_shift.md R600). -/
def aslResult (v : Byte) : Byte := v <<< 1
/-- ASL's flags: C <- v[7] (42_shift.md R600). -/
def aslFlags (f : Flags) (v : Byte) : Flags := setNZC f (aslResult v) (v.getLsbD 7)
/-- LSR's result: bit 7 becomes 0 (42_shift.md R601). -/
def lsrResult (v : Byte) : Byte := v >>> 1
/-- LSR's flags: C <- v[0], N <- 0 (42_shift.md R601). -/
def lsrFlags (f : Flags) (v : Byte) : Flags := { f with c := v.getLsbD 0, n := false, z := decide (lsrResult v = 0) }
/-- ROL's result: the old C enters bit 0 (42_shift.md R602). -/
def rolResult (c : Bool) (v : Byte) : Byte := v <<< 1 ||| bitAt c 0
/-- ROL's flags: C <- v[7] (42_shift.md R602). -/
def rolFlags (f : Flags) (v : Byte) : Flags := setNZC f (rolResult f.c v) (v.getLsbD 7)
/-- ROR's result: the old C enters bit 7 (42_shift.md R603). -/
def rorResult (c : Bool) (v : Byte) : Byte := v >>> 1 ||| bitAt c 7
/-- ROR's flags: C <- v[0] (42_shift.md R603). -/
def rorFlags (f : Flags) (v : Byte) : Flags := setNZC f (rorResult f.c v) (v.getLsbD 0)

end Sys2Proof.Machine
end

