-- ==== Sys2Proof/Machine/Vram.lean ====
section
/-! DEFINITION. The PPU address space and its mirroring (20_memory.md R220 to R226), OAM, and the named fields of the PPU's
control and mask registers (10_state.md R133, R134). -/

namespace Sys2Proof.Machine

/-- PhysNT(q): the physical nametable behind a logical quadrant (20_memory.md R223). -/
def physNT (m : Mirroring) (q : Nat) : Nat :=
  match m with
  | .horizontal => q / 2
  | .vertical => q % 2

/-- The palette index an index of 0..31 is the same cell as (20_memory.md R224). -/
def paletteCell (p : Nat) : Nat := if p = 0x10 ∨ p = 0x14 ∨ p = 0x18 ∨ p = 0x1C then p - 0x10 else p

/-- Canon(a): the backing cell of vram for any PPU address (20_memory.md R222). -/
def canon (m : Mirroring) (addr : Nat) : Nat :=
  let a := addr % 0x4000
  if a ≤ 0x1FFF then a
  else if a ≤ 0x3EFF then
    let n := (a - 0x2000) % 0x1000
    0x2000 + 0x400 * physNT m (n / 0x400) + n % 0x400
  else 0x3F00 + paletteCell (a % 0x20)

/-- VramRead(a) (20_memory.md R225). -/
def vramRead (p : Ppu) (a : Nat) : Byte := vramGet p.vram (canon p.mirroring a)

/-- VramWrite(a, v) (20_memory.md R225). -/
def vramWrite (p : Ppu) (a : Nat) (v : Byte) : Ppu := { p with vram := vramPut (canon p.mirroring a) v p.vram }

/-- oam[k] (10_state.md R131). -/
def oamRead (p : Ppu) (k : Byte) : Byte := oamGet p.oam k.toNat

/-- oam[k] <- v (10_state.md R131, 20_memory.md R226). -/
def oamWrite (p : Ppu) (k v : Byte) : Ppu := { p with oam := oamPut k.toNat v p.oam }

/-- ctrl[1:0], the base nametable (10_state.md R133). -/
def ctrlBaseNametable (v : Byte) : BitVec 2 := v.extractLsb' 0 2
/-- ctrl[2], the VRAM increment (10_state.md R133). -/
def ctrlIncrement32 (v : Byte) : Bool := v.getLsbD 2
/-- ctrl[3], the sprite pattern base (10_state.md R133). -/
def ctrlSpriteBase (v : Byte) : Bool := v.getLsbD 3
/-- ctrl[4], the background pattern base (10_state.md R133). -/
def ctrlBackgroundBase (v : Byte) : Bool := v.getLsbD 4
/-- ctrl[5], the sprite size; no CORE rule reads it (10_state.md R133). -/
def ctrlTallSprites (v : Byte) : Bool := v.getLsbD 5
/-- ctrl[6], master/slave select; no CORE rule reads it (10_state.md R133). -/
def ctrlMasterSlave (v : Byte) : Bool := v.getLsbD 6
/-- ctrl[7], NMI at vertical blank (10_state.md R133). -/
def ctrlNmi (v : Byte) : Bool := v.getLsbD 7

/-- mask[0], greyscale. No CORE rule reads mask (10_state.md R134); these are the fields a driver may read. -/
def maskGreyscale (v : Byte) : Bool := v.getLsbD 0
/-- mask[1], show background in the leftmost 8 pixels (10_state.md R134). -/
def maskBackgroundLeft (v : Byte) : Bool := v.getLsbD 1
/-- mask[2], show sprites in the leftmost 8 pixels (10_state.md R134). -/
def maskSpritesLeft (v : Byte) : Bool := v.getLsbD 2
/-- mask[3], show background (10_state.md R134). -/
def maskBackground (v : Byte) : Bool := v.getLsbD 3
/-- mask[4], show sprites (10_state.md R134). -/
def maskSprites (v : Byte) : Bool := v.getLsbD 4
/-- mask[5], emphasize red (10_state.md R134). -/
def maskRed (v : Byte) : Bool := v.getLsbD 5
/-- mask[6], emphasize green (10_state.md R134). -/
def maskGreen (v : Byte) : Bool := v.getLsbD 6
/-- mask[7], emphasize blue (10_state.md R134). -/
def maskBlue (v : Byte) : Bool := v.getLsbD 7

/-- Inc() (48_ppu_ports.md R1211). -/
def vramInc (p : Ppu) : BitVec 14 := if ctrlIncrement32 p.ctrl then 32 else 1

end Sys2Proof.Machine
end

