-- ==== Sys2Proof/Machine/Ports.lean ====
section
/-! DEFINITION. The eight PPU register ports (48_ppu_ports.md R1200 to R1213) and the draw of an open value. -/

namespace Sys2Proof.Machine

/-- The PPU registers (48_ppu_ports.md R1200). -/
inductive Port where
  | ppuCtrl | ppuMask | ppuStatus | oamAddr | oamData | ppuScroll | ppuAddr | ppuData
  deriving DecidableEq, Repr

/-- Register r = addr & 7 (48_ppu_ports.md R1200). -/
def portOf (r : Nat) : Port :=
  match r % 8 with
  | 0 => .ppuCtrl
  | 1 => .ppuMask
  | 2 => .ppuStatus
  | 3 => .oamAddr
  | 4 => .oamData
  | 5 => .ppuScroll
  | 6 => .ppuAddr
  | _ => .ppuData

/-- A draw: a fresh free value (00_scope.md R19; log 6). -/
def drawOpenBus (s : State) : Byte × State := (Config.openBus s.draws, s.setDraws (s.draws + 1))

/-- A draw of ExtRead(addr) (20_memory.md R207; log 7). -/
def drawExtRead (addr : Word) (s : State) : Byte × State := (Config.extRead addr s.draws, s.setDraws (s.draws + 1))

/-- The byte a PPUSTATUS read returns: the three stored bits, and a draw in bits 4:0 (48_ppu_ports.md R1203). -/
def statusByte (vblank sprite0Hit spriteOverflow : Bool) (d : Byte) : Byte :=
  (if vblank then 0x80#8 else 0) ||| (if sprite0Hit then 0x40#8 else 0) ||| (if spriteOverflow then 0x20#8 else 0) |||
    (d &&& 0x1F)

/-- PPUSTATUS read: clears vblank and w (48_ppu_ports.md R1203). -/
def readStatus (s : State) : Byte × State :=
  let d := drawOpenBus s
  (statusByte s.ppu.vblank s.ppu.sprite0Hit s.ppu.spriteOverflow d.1,
    d.2.setPpu { d.2.ppu with vblank := false, w := false })

/-- PPUDATA read: the old buffer, the buffer refilled, the pointer advanced (48_ppu_ports.md R1210). -/
def readData (s : State) : Byte × State :=
  (s.ppu.readBuffer,
    s.setPpu { s.ppu with
      readBuffer := vramRead s.ppu s.ppu.vramAddr.toNat
      vramAddr := s.ppu.vramAddr + vramInc s.ppu })

/-- PpuPortRead(r) (48_ppu_ports.md R1200, R1203, R1206, R1210, R1212). -/
def portRead (p : Port) (s : State) : Byte × State :=
  match p with
  | .ppuCtrl => drawOpenBus s
  | .ppuMask => drawOpenBus s
  | .ppuStatus => readStatus s
  | .oamAddr => drawOpenBus s
  | .oamData => (oamRead s.ppu s.ppu.oamAddr, s)
  | .ppuScroll => drawOpenBus s
  | .ppuAddr => drawOpenBus s
  | .ppuData => readData s

/-- PPUCTRL write: enabling NMI while vblank is set requests an NMI at once (48_ppu_ports.md R1201). -/
def writeCtrl (v : Byte) (s : State) : State :=
  let t := s.setPpu { s.ppu with ctrl := v }
  if !ctrlNmi s.ppu.ctrl && ctrlNmi v && s.ppu.vblank then t.setNmi true else t

/-- OAMDATA write: stores and increments (48_ppu_ports.md R1205). -/
def writeOamData (v : Byte) (p : Ppu) : Ppu :=
  let q := oamWrite p p.oamAddr v
  { q with oamAddr := q.oamAddr + 1 }

/-- PPUSCROLL write: x then y, by the toggle (48_ppu_ports.md R1207). -/
def writeScroll (v : Byte) (p : Ppu) : Ppu :=
  if p.w then { p with scrollY := v, w := false } else { p with scrollX := v, w := true }

/-- PPUADDR write: the high 6 bits, then the low 8, by the toggle (48_ppu_ports.md R1208). -/
def writeAddr (v : Byte) (p : Ppu) : Ppu :=
  if p.w then { p with vramAddr := (p.vramAddr &&& 0x3F00) ||| v.setWidth 14, w := false }
  else { p with vramAddr := ((v &&& 0x3F).setWidth 14 <<< 8) ||| (p.vramAddr &&& 0x00FF), w := true }

/-- PPUDATA write (48_ppu_ports.md R1209). -/
def writeData (v : Byte) (p : Ppu) : Ppu :=
  let q := vramWrite p p.vramAddr.toNat v
  { q with vramAddr := q.vramAddr + vramInc q }

/-- PpuPortWrite(r, v) (48_ppu_ports.md R1200 to R1209, R1213). -/
def portWrite (p : Port) (v : Byte) (s : State) : State :=
  match p with
  | .ppuCtrl => writeCtrl v s
  | .ppuMask => s.setPpu { s.ppu with mask := v }
  | .ppuStatus => s
  | .oamAddr => s.setPpu { s.ppu with oamAddr := v }
  | .oamData => s.setPpu (writeOamData v s.ppu)
  | .ppuScroll => s.setPpu (writeScroll v s.ppu)
  | .ppuAddr => s.setPpu (writeAddr v s.ppu)
  | .ppuData => s.setPpu (writeData v s.ppu)

end Sys2Proof.Machine
end

