-- ==== Sys2Proof/Machine/Ops.lean ====
section
/-! DEFINITION. The CPU bus (20_memory.md R200 to R209), OAM DMA (48_ppu_ports.md R1214), the stack (47_stack_jump.md R1100,
R1101), and taking an exception and returning from one as shared operations (60_exceptions.md R1607 to R1611). -/

namespace Sys2Proof.Machine

/-- What a CPU address selects (20_memory.md R203). A RAM or cartridge region names its cell of the CPU memory. -/
inductive Region where
  | ram (cell : Nat)
  | port (p : Port)
  | oamDma
  | extIo
  | cart (cell : Nat)
  deriving DecidableEq, Repr

/-- The bus decode (20_memory.md R203), with ram_cell of R206: flat, or the 2 KiB RAM mirrored if RAM_MIRROR is true. -/
def busRegion (ramMirror : Bool) (addr : Word) : Region :=
  let a := addr.toNat
  if a ≤ 0x1FFF then .ram (if ramMirror then a % 0x800 else a)
  else if a ≤ 0x3FFF then .port (portOf a)
  else if a = 0x4014 then .oamDma
  else if a ≤ 0x401F then .extIo
  else .cart a

/-- MemRead(addr, 1) (20_memory.md R204). -/
def memRead (addr : Word) (s : State) : Byte × State :=
  match busRegion s.ramMirror addr with
  | .ram cell => (memGet s.mem cell, s)
  | .port p => portRead p s
  | .oamDma => drawOpenBus s
  | .extIo => drawExtRead addr s
  | .cart cell => (memGet s.mem cell, s)

/-- One byte of OAM DMA: oam[(oam_addr + i) mod 256] <- MemRead((page << 8) + i, 1) (48_ppu_ports.md R1214). -/
def dmaByte (page i : Byte) (s : State) : State :=
  let r := memRead (joinBytes page i) s
  r.2.setPpu (oamWrite r.2.ppu (r.2.ppu.oamAddr + i) r.1)

/-- OAM DMA from byte i on, n bytes, in increasing address order (48_ppu_ports.md R1214; log 18). -/
def dmaFrom (page : Byte) : Nat → Nat → State → State
  | _, 0, s => s
  | i, n + 1, s => dmaFrom page (i + 1) n (dmaByte page (BitVec.ofNat 8 i) s)

/-- OamDma(v): the 256 bytes of CPU page v into OAM (48_ppu_ports.md R1214). -/
def oamDma (page : Byte) (s : State) : State := dmaFrom page 0 256 s

/-- MemWrite(addr, 1, v) (20_memory.md R205). -/
def memWrite (addr : Word) (v : Byte) (s : State) : State :=
  match busRegion s.ramMirror addr with
  | .ram cell => s.setMem (memPut cell v s.mem)
  | .port p => portWrite p v s
  | .oamDma => oamDma v s
  | .extIo => s
  | .cart cell => if s.cartWritable then s.setMem (memPut cell v s.mem) else s

/-- MemRead16(addr): two byte reads, low address first (00_scope.md R16). -/
def memRead16 (addr : Word) (s : State) : Word × State :=
  let lo := memRead addr s
  let hi := memRead (addr + 1) lo.2
  (joinBytes hi.1 lo.1, hi.2)

/-- The byte stored at a CPU address that holds one, with no access made: none at a port or an I/O address. A claim reads
memory through it. -/
def byteAt (s : State) (addr : Word) : Option Byte :=
  match busRegion s.ramMirror addr with
  | .ram cell => some (memGet s.mem cell)
  | .port _ => none
  | .oamDma => none
  | .extIo => none
  | .cart cell => some (memGet s.mem cell)

/-- The stack address $0100 + S (10_state.md R104). -/
def stackAddr (sp : Byte) : Word := joinBytes 1 sp

/-- Push(v) (47_stack_jump.md R1100). -/
def push (v : Byte) (s : State) : State :=
  let t := memWrite (stackAddr s.sp) v s
  t.setSp (t.sp - 1)

/-- Pull() (47_stack_jump.md R1101). -/
def pull (s : State) : Byte × State :=
  let t := s.setSp (s.sp + 1)
  memRead (stackAddr t.sp) t

/-- Taking an exception that is entered through a vector: the return address and the status byte pushed (high byte first,
then PackP(b)), I set, PC from the vector (60_exceptions.md R1607; 47_stack_jump.md R1110 for BRK, whose b is 1). -/
def enterHandler (ret : Word) (b : Bool) (vec : Word) (s : State) : State :=
  let s1 := push (highByte ret) s
  let s2 := push (lowByte ret) s1
  let s3 := push (packP b s2.flags) s2
  let s4 := s3.setFlags { s3.flags with i := true }
  let r := memRead16 vec s4
  r.2.setPc r.1

/-- InterruptEntry(vec) (60_exceptions.md R1607). -/
def interruptEntry (vec : Word) (s : State) : State := enterHandler s.pc false vec s

/-- The NMI vector (20_memory.md R209). -/
def nmiVector : Word := 0xFFFA
/-- The reset vector (20_memory.md R209). -/
def resetVector : Word := 0xFFFC
/-- The IRQ and BRK vector (20_memory.md R209). -/
def irqVector : Word := 0xFFFE

/-- NMI entry (60_exceptions.md R1608). -/
def takeNmi (s : State) : State := interruptEntry nmiVector (s.setNmi false)

/-- IRQ entry: irq_line is unchanged (60_exceptions.md R1609). -/
def takeIrq (s : State) : State := interruptEntry irqVector s

/-- Return from an exception: the status byte, bits 5 and 4 ignored, then the return address (60_exceptions.md R1611,
47_stack_jump.md R1109). -/
def returnFromHandler (s : State) : State :=
  let p := pull s
  let lo := pull (p.2.setFlags (unpackP p.1))
  let hi := pull lo.2
  hi.2.setPc (joinBytes hi.1 lo.1)

/-- The effect that is left of an undefined opcode's step after its opcode fetch: PC back at the opcode, and the fault
recorded (60_exceptions.md R1601). -/
def haltUndefined (op : Byte) (pc0 : Word) (s : State) : State :=
  (s.setPc pc0).setFault (some (.undefinedOpcode op pc0))

end Sys2Proof.Machine
end

