-- ==== Sys2Proof/Machine/Operands.lean ====
section
/-! DEFINITION. The addressing-mode resolver (40_addressing.md R404 to R416) and the operand primitives (R417). A meaning runs
after the fetch has read the opcode and every operand byte in order, with PC at the byte after the instruction (R404;
log 9), so an operand here holds its bytes' values. -/

namespace Sys2Proof.Machine

/-- sext_16(b) (00_scope.md R14). -/
def sext16 (b : Byte) : Word := if b.toNat < 128 then b.setWidth 16 else b.setWidth 16 + 0xFF00

/-- zext_16(b) (00_scope.md R14). -/
def zext16 (b : Byte) : Word := b.setWidth 16

/-- What the resolver returns: NoAddr, an effective address, or, for an immediate, the operand byte that the fetch has read
at its effective address (40_addressing.md R404, R406). -/
inductive Resolved where
  | noAddr
  | imm (n : Byte)
  | addr (ea : Word)
  deriving DecidableEq, Repr

/-- The word behind a zero-page pointer: its second byte wraps within the zero page (40_addressing.md R414, R415). -/
def zeroPagePointer (p : Byte) (s : State) : Word × State :=
  let lo := memRead (zext16 p) s
  let hi := memRead (zext16 (p + 1)) lo.2
  (joinBytes hi.1 lo.1, hi.2)

/-- The word behind an absolute pointer: its second byte is read from the same page (40_addressing.md R413). -/
def pageWrapPointer (ptr : Word) (s : State) : Word × State :=
  let lo := memRead ptr s
  let hi := memRead ((ptr &&& 0xFF00) ||| ((ptr + 1) &&& 0x00FF)) lo.2
  (joinBytes hi.1 lo.1, hi.2)

/-- Resolve(mode) (40_addressing.md R405 to R416). -/
def resolve (o : Operand) (s : State) : Resolved × State :=
  match o with
  | .imp => (.noAddr, s)
  | .acc => (.noAddr, s)
  | .imm n => (.imm n, s)
  | .zp n => (.addr (zext16 n), s)
  | .zpx n => (.addr (zext16 (n + s.x)), s)
  | .zpy n => (.addr (zext16 (n + s.y)), s)
  | .abs w => (.addr w, s)
  | .abx w => (.addr (w + zext16 s.x), s)
  | .aby w => (.addr (w + zext16 s.y), s)
  | .ind w =>
    let r := pageWrapPointer w s
    (.addr r.1, r.2)
  | .izx n =>
    let r := zeroPagePointer (n + s.x) s
    (.addr r.1, r.2)
  | .izy n =>
    let r := zeroPagePointer n s
    (.addr (r.1 + zext16 r.2.y), r.2)
  | .rel n => (.addr (s.pc + sext16 n), s)

/-- Operand(ea) (40_addressing.md R417): A where there is no address, else the one read of the operand byte. -/
def operandAt (t : Resolved) (s : State) : Byte × State :=
  match t with
  | .noAddr => (s.a, s)
  | .imm n => (n, s)
  | .addr ea => memRead ea s

/-- Store(ea, v) (40_addressing.md R417). No instruction stores to an immediate (30_encoding.md R303; log 17). -/
def storeAt (t : Resolved) (v : Byte) (s : State) : State :=
  match t with
  | .noAddr => s.setA v
  | .imm _ => s
  | .addr ea => memWrite ea v s

/-- M <- Operand(Resolve(mode)): the operand byte of a reading instruction. -/
def loadOperand (o : Operand) (s : State) : Byte × State :=
  let t := resolve o s
  operandAt t.1 t.2

/-- Store(Resolve(mode), v), with v the value of a register, which no resolver changes (40_addressing.md R404). -/
def storeOperand (o : Operand) (v : Byte) (s : State) : State :=
  let t := resolve o s
  storeAt t.1 v t.2

/-- A read-modify-write (42_shift.md R600 to R604, 45_arith.md R907, R908): one read of the operand, one write of the result to
the same place, then the flags; result and flags are functions of the flags and the operand. -/
def modifyOperand (result : Flags → Byte → Byte) (flags : Flags → Byte → Flags) (o : Operand) (s : State) : State :=
  let t := resolve o s
  let v := operandAt t.1 t.2
  let u := storeAt t.1 (result v.2.flags v.1) v.2
  u.setFlags (flags v.2.flags v.1)

/-- PC <- ea, for the modes whose address is a jump target (40_addressing.md R417); NoAddr leaves PC. -/
def jumpTo (t : Resolved) (s : State) : State :=
  match t with
  | .noAddr => s
  | .imm _ => s
  | .addr ea => s.setPc ea

end Sys2Proof.Machine
end

