-- ==== Sys2Proof/Machine/Logical.lean ====
section
/-! DEFINITION. The logical instructions (41_logical.md R500 to R503): their effects, and one meaning per row. -/

namespace Sys2Proof.Machine

/-- A <- r; N <- A[7]; Z <- (A == 0). -/
def setANZ (r : Byte) (s : State) : State := (s.setA r).setFlags (setNZ s.flags r)

/-- X <- r; N <- X[7]; Z <- (X == 0). -/
def setXNZ (r : Byte) (s : State) : State := (s.setX r).setFlags (setNZ s.flags r)

/-- Y <- r; N <- Y[7]; Z <- (Y == 0). -/
def setYNZ (r : Byte) (s : State) : State := (s.setY r).setFlags (setNZ s.flags r)

/-- ORA (41_logical.md R500). -/
def effOra (o : Operand) (s : State) : State :=
  let m := loadOperand o s
  setANZ (m.2.a ||| m.1) m.2

/-- AND (41_logical.md R501). -/
def effAnd (o : Operand) (s : State) : State :=
  let m := loadOperand o s
  setANZ (m.2.a &&& m.1) m.2

/-- EOR (41_logical.md R502). -/
def effEor (o : Operand) (s : State) : State :=
  let m := loadOperand o s
  setANZ (m.2.a ^^^ m.1) m.2

/-- BIT (41_logical.md R503). -/
def effBit (o : Operand) (s : State) : State :=
  let m := loadOperand o s
  m.2.setFlags (bitFlags m.2.flags m.2.a m.1)

/-- ORA, $09 imm (41_logical.md R500). -/
def execOraImm (n : Byte) (s : State) : Host.Outcome State Fault Refusal := .next (effOra (.imm n) s)
/-- ORA, $05 zp (41_logical.md R500). -/
def execOraZp (n : Byte) (s : State) : Host.Outcome State Fault Refusal := .next (effOra (.zp n) s)
/-- ORA, $15 zpx (41_logical.md R500). -/
def execOraZpx (n : Byte) (s : State) : Host.Outcome State Fault Refusal := .next (effOra (.zpx n) s)
/-- ORA, $0D abs (41_logical.md R500). -/
def execOraAbs (w : Word) (s : State) : Host.Outcome State Fault Refusal := .next (effOra (.abs w) s)
/-- ORA, $1D abx (41_logical.md R500). -/
def execOraAbx (w : Word) (s : State) : Host.Outcome State Fault Refusal := .next (effOra (.abx w) s)
/-- ORA, $19 aby (41_logical.md R500). -/
def execOraAby (w : Word) (s : State) : Host.Outcome State Fault Refusal := .next (effOra (.aby w) s)
/-- ORA, $01 izx (41_logical.md R500). -/
def execOraIzx (n : Byte) (s : State) : Host.Outcome State Fault Refusal := .next (effOra (.izx n) s)
/-- ORA, $11 izy (41_logical.md R500). -/
def execOraIzy (n : Byte) (s : State) : Host.Outcome State Fault Refusal := .next (effOra (.izy n) s)

/-- AND, $29 imm (41_logical.md R501). -/
def execAndImm (n : Byte) (s : State) : Host.Outcome State Fault Refusal := .next (effAnd (.imm n) s)
/-- AND, $25 zp (41_logical.md R501). -/
def execAndZp (n : Byte) (s : State) : Host.Outcome State Fault Refusal := .next (effAnd (.zp n) s)
/-- AND, $35 zpx (41_logical.md R501). -/
def execAndZpx (n : Byte) (s : State) : Host.Outcome State Fault Refusal := .next (effAnd (.zpx n) s)
/-- AND, $2D abs (41_logical.md R501). -/
def execAndAbs (w : Word) (s : State) : Host.Outcome State Fault Refusal := .next (effAnd (.abs w) s)
/-- AND, $3D abx (41_logical.md R501). -/
def execAndAbx (w : Word) (s : State) : Host.Outcome State Fault Refusal := .next (effAnd (.abx w) s)
/-- AND, $39 aby (41_logical.md R501). -/
def execAndAby (w : Word) (s : State) : Host.Outcome State Fault Refusal := .next (effAnd (.aby w) s)
/-- AND, $21 izx (41_logical.md R501). -/
def execAndIzx (n : Byte) (s : State) : Host.Outcome State Fault Refusal := .next (effAnd (.izx n) s)
/-- AND, $31 izy (41_logical.md R501). -/
def execAndIzy (n : Byte) (s : State) : Host.Outcome State Fault Refusal := .next (effAnd (.izy n) s)

/-- EOR, $49 imm (41_logical.md R502). -/
def execEorImm (n : Byte) (s : State) : Host.Outcome State Fault Refusal := .next (effEor (.imm n) s)
/-- EOR, $45 zp (41_logical.md R502). -/
def execEorZp (n : Byte) (s : State) : Host.Outcome State Fault Refusal := .next (effEor (.zp n) s)
/-- EOR, $55 zpx (41_logical.md R502). -/
def execEorZpx (n : Byte) (s : State) : Host.Outcome State Fault Refusal := .next (effEor (.zpx n) s)
/-- EOR, $4D abs (41_logical.md R502). -/
def execEorAbs (w : Word) (s : State) : Host.Outcome State Fault Refusal := .next (effEor (.abs w) s)
/-- EOR, $5D abx (41_logical.md R502). -/
def execEorAbx (w : Word) (s : State) : Host.Outcome State Fault Refusal := .next (effEor (.abx w) s)
/-- EOR, $59 aby (41_logical.md R502). -/
def execEorAby (w : Word) (s : State) : Host.Outcome State Fault Refusal := .next (effEor (.aby w) s)
/-- EOR, $41 izx (41_logical.md R502). -/
def execEorIzx (n : Byte) (s : State) : Host.Outcome State Fault Refusal := .next (effEor (.izx n) s)
/-- EOR, $51 izy (41_logical.md R502). -/
def execEorIzy (n : Byte) (s : State) : Host.Outcome State Fault Refusal := .next (effEor (.izy n) s)

/-- BIT, $24 zp (41_logical.md R503). -/
def execBitZp (n : Byte) (s : State) : Host.Outcome State Fault Refusal := .next (effBit (.zp n) s)
/-- BIT, $2C abs (41_logical.md R503). -/
def execBitAbs (w : Word) (s : State) : Host.Outcome State Fault Refusal := .next (effBit (.abs w) s)

end Sys2Proof.Machine
end

