-- ==== Sys2Proof/Machine/Arith.lean ====
section
/-! DEFINITION. Arithmetic, compare, increment and decrement (45_arith.md R901 to R913): their effects, and one meaning per
row. -/

namespace Sys2Proof.Machine

/-- ADC (45_arith.md R901). -/
def effAdc (o : Operand) (s : State) : State :=
  let m := loadOperand o s
  (m.2.setA (adcResult m.2.a m.1 m.2.flags.c)).setFlags (adcFlags m.2.flags m.2.a m.1)

/-- SBC (45_arith.md R902). -/
def effSbc (o : Operand) (s : State) : State :=
  let m := loadOperand o s
  (m.2.setA (sbcResult m.2.a m.1 m.2.flags.c)).setFlags (sbcFlags m.2.flags m.2.a m.1)

/-- CMP (45_arith.md R904). -/
def effCmp (o : Operand) (s : State) : State :=
  let m := loadOperand o s
  m.2.setFlags (compareFlags m.2.flags m.2.a m.1)

/-- CPX (45_arith.md R905). -/
def effCpx (o : Operand) (s : State) : State :=
  let m := loadOperand o s
  m.2.setFlags (compareFlags m.2.flags m.2.x m.1)

/-- CPY (45_arith.md R906). -/
def effCpy (o : Operand) (s : State) : State :=
  let m := loadOperand o s
  m.2.setFlags (compareFlags m.2.flags m.2.y m.1)

/-- INC (45_arith.md R907). -/
def effInc (o : Operand) (s : State) : State := modifyOperand (fun _ v => v + 1) (fun f v => setNZ f (v + 1)) o s

/-- DEC (45_arith.md R908). -/
def effDec (o : Operand) (s : State) : State := modifyOperand (fun _ v => v - 1) (fun f v => setNZ f (v - 1)) o s

/-- ADC, $69 imm (45_arith.md R901). -/
def execAdcImm (n : Byte) (s : State) : Host.Outcome State Fault Refusal := .next (effAdc (.imm n) s)
/-- ADC, $65 zp (45_arith.md R901). -/
def execAdcZp (n : Byte) (s : State) : Host.Outcome State Fault Refusal := .next (effAdc (.zp n) s)
/-- ADC, $75 zpx (45_arith.md R901). -/
def execAdcZpx (n : Byte) (s : State) : Host.Outcome State Fault Refusal := .next (effAdc (.zpx n) s)
/-- ADC, $6D abs (45_arith.md R901). -/
def execAdcAbs (w : Word) (s : State) : Host.Outcome State Fault Refusal := .next (effAdc (.abs w) s)
/-- ADC, $7D abx (45_arith.md R901). -/
def execAdcAbx (w : Word) (s : State) : Host.Outcome State Fault Refusal := .next (effAdc (.abx w) s)
/-- ADC, $79 aby (45_arith.md R901). -/
def execAdcAby (w : Word) (s : State) : Host.Outcome State Fault Refusal := .next (effAdc (.aby w) s)
/-- ADC, $61 izx (45_arith.md R901). -/
def execAdcIzx (n : Byte) (s : State) : Host.Outcome State Fault Refusal := .next (effAdc (.izx n) s)
/-- ADC, $71 izy (45_arith.md R901). -/
def execAdcIzy (n : Byte) (s : State) : Host.Outcome State Fault Refusal := .next (effAdc (.izy n) s)

/-- SBC, $E9 imm (45_arith.md R902). -/
def execSbcImm (n : Byte) (s : State) : Host.Outcome State Fault Refusal := .next (effSbc (.imm n) s)
/-- SBC, $E5 zp (45_arith.md R902). -/
def execSbcZp (n : Byte) (s : State) : Host.Outcome State Fault Refusal := .next (effSbc (.zp n) s)
/-- SBC, $F5 zpx (45_arith.md R902). -/
def execSbcZpx (n : Byte) (s : State) : Host.Outcome State Fault Refusal := .next (effSbc (.zpx n) s)
/-- SBC, $ED abs (45_arith.md R902). -/
def execSbcAbs (w : Word) (s : State) : Host.Outcome State Fault Refusal := .next (effSbc (.abs w) s)
/-- SBC, $FD abx (45_arith.md R902). -/
def execSbcAbx (w : Word) (s : State) : Host.Outcome State Fault Refusal := .next (effSbc (.abx w) s)
/-- SBC, $F9 aby (45_arith.md R902). -/
def execSbcAby (w : Word) (s : State) : Host.Outcome State Fault Refusal := .next (effSbc (.aby w) s)
/-- SBC, $E1 izx (45_arith.md R902). -/
def execSbcIzx (n : Byte) (s : State) : Host.Outcome State Fault Refusal := .next (effSbc (.izx n) s)
/-- SBC, $F1 izy (45_arith.md R902). -/
def execSbcIzy (n : Byte) (s : State) : Host.Outcome State Fault Refusal := .next (effSbc (.izy n) s)

/-- CMP, $C9 imm (45_arith.md R904). -/
def execCmpImm (n : Byte) (s : State) : Host.Outcome State Fault Refusal := .next (effCmp (.imm n) s)
/-- CMP, $C5 zp (45_arith.md R904). -/
def execCmpZp (n : Byte) (s : State) : Host.Outcome State Fault Refusal := .next (effCmp (.zp n) s)
/-- CMP, $D5 zpx (45_arith.md R904). -/
def execCmpZpx (n : Byte) (s : State) : Host.Outcome State Fault Refusal := .next (effCmp (.zpx n) s)
/-- CMP, $CD abs (45_arith.md R904). -/
def execCmpAbs (w : Word) (s : State) : Host.Outcome State Fault Refusal := .next (effCmp (.abs w) s)
/-- CMP, $DD abx (45_arith.md R904). -/
def execCmpAbx (w : Word) (s : State) : Host.Outcome State Fault Refusal := .next (effCmp (.abx w) s)
/-- CMP, $D9 aby (45_arith.md R904). -/
def execCmpAby (w : Word) (s : State) : Host.Outcome State Fault Refusal := .next (effCmp (.aby w) s)
/-- CMP, $C1 izx (45_arith.md R904). -/
def execCmpIzx (n : Byte) (s : State) : Host.Outcome State Fault Refusal := .next (effCmp (.izx n) s)
/-- CMP, $D1 izy (45_arith.md R904). -/
def execCmpIzy (n : Byte) (s : State) : Host.Outcome State Fault Refusal := .next (effCmp (.izy n) s)

/-- CPX, $E0 imm (45_arith.md R905). -/
def execCpxImm (n : Byte) (s : State) : Host.Outcome State Fault Refusal := .next (effCpx (.imm n) s)
/-- CPX, $E4 zp (45_arith.md R905). -/
def execCpxZp (n : Byte) (s : State) : Host.Outcome State Fault Refusal := .next (effCpx (.zp n) s)
/-- CPX, $EC abs (45_arith.md R905). -/
def execCpxAbs (w : Word) (s : State) : Host.Outcome State Fault Refusal := .next (effCpx (.abs w) s)

/-- CPY, $C0 imm (45_arith.md R906). -/
def execCpyImm (n : Byte) (s : State) : Host.Outcome State Fault Refusal := .next (effCpy (.imm n) s)
/-- CPY, $C4 zp (45_arith.md R906). -/
def execCpyZp (n : Byte) (s : State) : Host.Outcome State Fault Refusal := .next (effCpy (.zp n) s)
/-- CPY, $CC abs (45_arith.md R906). -/
def execCpyAbs (w : Word) (s : State) : Host.Outcome State Fault Refusal := .next (effCpy (.abs w) s)

/-- INC, $E6 zp (45_arith.md R907). -/
def execIncZp (n : Byte) (s : State) : Host.Outcome State Fault Refusal := .next (effInc (.zp n) s)
/-- INC, $F6 zpx (45_arith.md R907). -/
def execIncZpx (n : Byte) (s : State) : Host.Outcome State Fault Refusal := .next (effInc (.zpx n) s)
/-- INC, $EE abs (45_arith.md R907). -/
def execIncAbs (w : Word) (s : State) : Host.Outcome State Fault Refusal := .next (effInc (.abs w) s)
/-- INC, $FE abx (45_arith.md R907). -/
def execIncAbx (w : Word) (s : State) : Host.Outcome State Fault Refusal := .next (effInc (.abx w) s)

/-- DEC, $C6 zp (45_arith.md R908). -/
def execDecZp (n : Byte) (s : State) : Host.Outcome State Fault Refusal := .next (effDec (.zp n) s)
/-- DEC, $D6 zpx (45_arith.md R908). -/
def execDecZpx (n : Byte) (s : State) : Host.Outcome State Fault Refusal := .next (effDec (.zpx n) s)
/-- DEC, $CE abs (45_arith.md R908). -/
def execDecAbs (w : Word) (s : State) : Host.Outcome State Fault Refusal := .next (effDec (.abs w) s)
/-- DEC, $DE abx (45_arith.md R908). -/
def execDecAbx (w : Word) (s : State) : Host.Outcome State Fault Refusal := .next (effDec (.abx w) s)

/-- INX, $E8 imp (45_arith.md R909): X <- X + 1. -/
def execInx (s : State) : Host.Outcome State Fault Refusal := .next (setXNZ (s.x + 1) s)

/-- INY, $C8 imp (45_arith.md R910): Y <- Y + 1. -/
def execIny (s : State) : Host.Outcome State Fault Refusal := .next (setYNZ (s.y + 1) s)

/-- DEX, $CA imp (45_arith.md R911): X <- X - 1. -/
def execDex (s : State) : Host.Outcome State Fault Refusal := .next (setXNZ (s.x - 1) s)

/-- DEY, $88 imp (45_arith.md R912): Y <- Y - 1. -/
def execDey (s : State) : Host.Outcome State Fault Refusal := .next (setYNZ (s.y - 1) s)

end Sys2Proof.Machine
end

