-- ==== Sys2Proof/Machine/Branch.lean ====
section
/-! DEFINITION. The conditional branches (43_branch.md R700 to R708): one meaning per row. -/

namespace Sys2Proof.Machine

/-- if cond: PC <- ea, with ea the relative resolver's address (43_branch.md R700, 40_addressing.md R416). -/
def branchIf (cond : Bool) (n : Byte) (s : State) : State :=
  let t := resolve (.rel n) s
  if cond then jumpTo t.1 t.2 else t.2

/-- BPL, $10 rel (43_branch.md R701): if N == 0. -/
def execBpl (n : Byte) (s : State) : Host.Outcome State Fault Refusal := .next (branchIf (!s.flags.n) n s)

/-- BMI, $30 rel (43_branch.md R702): if N == 1. -/
def execBmi (n : Byte) (s : State) : Host.Outcome State Fault Refusal := .next (branchIf s.flags.n n s)

/-- BVC, $50 rel (43_branch.md R703): if V == 0. -/
def execBvc (n : Byte) (s : State) : Host.Outcome State Fault Refusal := .next (branchIf (!s.flags.v) n s)

/-- BVS, $70 rel (43_branch.md R704): if V == 1. -/
def execBvs (n : Byte) (s : State) : Host.Outcome State Fault Refusal := .next (branchIf s.flags.v n s)

/-- BCC, $90 rel (43_branch.md R705): if C == 0. -/
def execBcc (n : Byte) (s : State) : Host.Outcome State Fault Refusal := .next (branchIf (!s.flags.c) n s)

/-- BCS, $B0 rel (43_branch.md R706): if C == 1. -/
def execBcs (n : Byte) (s : State) : Host.Outcome State Fault Refusal := .next (branchIf s.flags.c n s)

/-- BNE, $D0 rel (43_branch.md R707): if Z == 0. -/
def execBne (n : Byte) (s : State) : Host.Outcome State Fault Refusal := .next (branchIf (!s.flags.z) n s)

/-- BEQ, $F0 rel (43_branch.md R708): if Z == 1. -/
def execBeq (n : Byte) (s : State) : Host.Outcome State Fault Refusal := .next (branchIf s.flags.z n s)

end Sys2Proof.Machine
end

