-- ==== Sys2Proof/Machine/FlagSet.lean ====
section
/-! DEFINITION. The flag instructions (44_flags.md R800 to R806): one meaning per row. -/

namespace Sys2Proof.Machine

/-- CLC, $18 imp (44_flags.md R800): C <- 0. -/
def execClc (s : State) : Host.Outcome State Fault Refusal := .next (s.setFlags { s.flags with c := false })

/-- SEC, $38 imp (44_flags.md R801): C <- 1. -/
def execSec (s : State) : Host.Outcome State Fault Refusal := .next (s.setFlags { s.flags with c := true })

/-- CLI, $58 imp (44_flags.md R802): I <- 0. -/
def execCli (s : State) : Host.Outcome State Fault Refusal := .next (s.setFlags { s.flags with i := false })

/-- SEI, $78 imp (44_flags.md R803): I <- 1. -/
def execSei (s : State) : Host.Outcome State Fault Refusal := .next (s.setFlags { s.flags with i := true })

/-- CLV, $B8 imp (44_flags.md R804): V <- 0. -/
def execClv (s : State) : Host.Outcome State Fault Refusal := .next (s.setFlags { s.flags with v := false })

/-- CLD, $D8 imp (44_flags.md R805): D <- 0. -/
def execCld (s : State) : Host.Outcome State Fault Refusal := .next (s.setFlags { s.flags with d := false })

/-- SED, $F8 imp (44_flags.md R806): D <- 1. -/
def execSed (s : State) : Host.Outcome State Fault Refusal := .next (s.setFlags { s.flags with d := true })

end Sys2Proof.Machine
end

