-- ==== Sys2Proof/Machine/LoadStore.lean ====
section
/-! DEFINITION. Loads, stores and register transfers (46_load_store.md R1000 to R1011): their effects, and one meaning per
row. -/

namespace Sys2Proof.Machine

/-- LDA (46_load_store.md R1000). -/
def effLda (o : Operand) (s : State) : State :=
  let m := loadOperand o s
  setANZ m.1 m.2

/-- LDX (46_load_store.md R1001). -/
def effLdx (o : Operand) (s : State) : State :=
  let m := loadOperand o s
  setXNZ m.1 m.2

/-- LDY (46_load_store.md R1002). -/
def effLdy (o : Operand) (s : State) : State :=
  let m := loadOperand o s
  setYNZ m.1 m.2

/-- STA (46_load_store.md R1003). -/
def effSta (o : Operand) (s : State) : State := storeOperand o s.a s

/-- STX (46_load_store.md R1004). -/
def effStx (o : Operand) (s : State) : State := storeOperand o s.x s

/-- STY (46_load_store.md R1005). -/
def effSty (o : Operand) (s : State) : State := storeOperand o s.y s

/-- LDA, $A9 imm (46_load_store.md R1000). -/
def execLdaImm (n : Byte) (s : State) : Host.Outcome State Fault Refusal := .next (effLda (.imm n) s)
/-- LDA, $A5 zp (46_load_store.md R1000). -/
def execLdaZp (n : Byte) (s : State) : Host.Outcome State Fault Refusal := .next (effLda (.zp n) s)
/-- LDA, $B5 zpx (46_load_store.md R1000). -/
def execLdaZpx (n : Byte) (s : State) : Host.Outcome State Fault Refusal := .next (effLda (.zpx n) s)
/-- LDA, $AD abs (46_load_store.md R1000). -/
def execLdaAbs (w : Word) (s : State) : Host.Outcome State Fault Refusal := .next (effLda (.abs w) s)
/-- LDA, $BD abx (46_load_store.md R1000). -/
def execLdaAbx (w : Word) (s : State) : Host.Outcome State Fault Refusal := .next (effLda (.abx w) s)
/-- LDA, $B9 aby (46_load_store.md R1000). -/
def execLdaAby (w : Word) (s : State) : Host.Outcome State Fault Refusal := .next (effLda (.aby w) s)
/-- LDA, $A1 izx (46_load_store.md R1000). -/
def execLdaIzx (n : Byte) (s : State) : Host.Outcome State Fault Refusal := .next (effLda (.izx n) s)
/-- LDA, $B1 izy (46_load_store.md R1000). -/
def execLdaIzy (n : Byte) (s : State) : Host.Outcome State Fault Refusal := .next (effLda (.izy n) s)

/-- LDX, $A2 imm (46_load_store.md R1001). -/
def execLdxImm (n : Byte) (s : State) : Host.Outcome State Fault Refusal := .next (effLdx (.imm n) s)
/-- LDX, $A6 zp (46_load_store.md R1001). -/
def execLdxZp (n : Byte) (s : State) : Host.Outcome State Fault Refusal := .next (effLdx (.zp n) s)
/-- LDX, $B6 zpy (46_load_store.md R1001). -/
def execLdxZpy (n : Byte) (s : State) : Host.Outcome State Fault Refusal := .next (effLdx (.zpy n) s)
/-- LDX, $AE abs (46_load_store.md R1001). -/
def execLdxAbs (w : Word) (s : State) : Host.Outcome State Fault Refusal := .next (effLdx (.abs w) s)
/-- LDX, $BE aby (46_load_store.md R1001). -/
def execLdxAby (w : Word) (s : State) : Host.Outcome State Fault Refusal := .next (effLdx (.aby w) s)

/-- LDY, $A0 imm (46_load_store.md R1002). -/
def execLdyImm (n : Byte) (s : State) : Host.Outcome State Fault Refusal := .next (effLdy (.imm n) s)
/-- LDY, $A4 zp (46_load_store.md R1002). -/
def execLdyZp (n : Byte) (s : State) : Host.Outcome State Fault Refusal := .next (effLdy (.zp n) s)
/-- LDY, $B4 zpx (46_load_store.md R1002). -/
def execLdyZpx (n : Byte) (s : State) : Host.Outcome State Fault Refusal := .next (effLdy (.zpx n) s)
/-- LDY, $AC abs (46_load_store.md R1002). -/
def execLdyAbs (w : Word) (s : State) : Host.Outcome State Fault Refusal := .next (effLdy (.abs w) s)
/-- LDY, $BC abx (46_load_store.md R1002). -/
def execLdyAbx (w : Word) (s : State) : Host.Outcome State Fault Refusal := .next (effLdy (.abx w) s)

/-- STA, $85 zp (46_load_store.md R1003). -/
def execStaZp (n : Byte) (s : State) : Host.Outcome State Fault Refusal := .next (effSta (.zp n) s)
/-- STA, $95 zpx (46_load_store.md R1003). -/
def execStaZpx (n : Byte) (s : State) : Host.Outcome State Fault Refusal := .next (effSta (.zpx n) s)
/-- STA, $8D abs (46_load_store.md R1003). -/
def execStaAbs (w : Word) (s : State) : Host.Outcome State Fault Refusal := .next (effSta (.abs w) s)
/-- STA, $9D abx (46_load_store.md R1003). -/
def execStaAbx (w : Word) (s : State) : Host.Outcome State Fault Refusal := .next (effSta (.abx w) s)
/-- STA, $99 aby (46_load_store.md R1003). -/
def execStaAby (w : Word) (s : State) : Host.Outcome State Fault Refusal := .next (effSta (.aby w) s)
/-- STA, $81 izx (46_load_store.md R1003). -/
def execStaIzx (n : Byte) (s : State) : Host.Outcome State Fault Refusal := .next (effSta (.izx n) s)
/-- STA, $91 izy (46_load_store.md R1003). -/
def execStaIzy (n : Byte) (s : State) : Host.Outcome State Fault Refusal := .next (effSta (.izy n) s)

/-- STX, $86 zp (46_load_store.md R1004). -/
def execStxZp (n : Byte) (s : State) : Host.Outcome State Fault Refusal := .next (effStx (.zp n) s)
/-- STX, $96 zpy (46_load_store.md R1004). -/
def execStxZpy (n : Byte) (s : State) : Host.Outcome State Fault Refusal := .next (effStx (.zpy n) s)
/-- STX, $8E abs (46_load_store.md R1004). -/
def execStxAbs (w : Word) (s : State) : Host.Outcome State Fault Refusal := .next (effStx (.abs w) s)

/-- STY, $84 zp (46_load_store.md R1005). -/
def execStyZp (n : Byte) (s : State) : Host.Outcome State Fault Refusal := .next (effSty (.zp n) s)
/-- STY, $94 zpx (46_load_store.md R1005). -/
def execStyZpx (n : Byte) (s : State) : Host.Outcome State Fault Refusal := .next (effSty (.zpx n) s)
/-- STY, $8C abs (46_load_store.md R1005). -/
def execStyAbs (w : Word) (s : State) : Host.Outcome State Fault Refusal := .next (effSty (.abs w) s)

/-- TAX, $AA imp (46_load_store.md R1006). -/
def execTax (s : State) : Host.Outcome State Fault Refusal := .next (setXNZ s.a s)

/-- TAY, $A8 imp (46_load_store.md R1007). -/
def execTay (s : State) : Host.Outcome State Fault Refusal := .next (setYNZ s.a s)

/-- TXA, $8A imp (46_load_store.md R1008). -/
def execTxa (s : State) : Host.Outcome State Fault Refusal := .next (setANZ s.x s)

/-- TYA, $98 imp (46_load_store.md R1009). -/
def execTya (s : State) : Host.Outcome State Fault Refusal := .next (setANZ s.y s)

/-- TSX, $BA imp (46_load_store.md R1010). -/
def execTsx (s : State) : Host.Outcome State Fault Refusal := .next (setXNZ s.sp s)

/-- TXS, $9A imp (46_load_store.md R1011): writes no flag. -/
def execTxs (s : State) : Host.Outcome State Fault Refusal := .next (s.setSp s.x)

end Sys2Proof.Machine
end

