-- ==== Sys2Proof/Machine/Shift.lean ====
section
/-! DEFINITION. The shifts and rotates (42_shift.md R600 to R604): their effects, and one meaning per row. -/

namespace Sys2Proof.Machine

/-- ASL (42_shift.md R600). -/
def effAsl (o : Operand) (s : State) : State := modifyOperand (fun _ v => aslResult v) aslFlags o s

/-- LSR (42_shift.md R601). -/
def effLsr (o : Operand) (s : State) : State := modifyOperand (fun _ v => lsrResult v) lsrFlags o s

/-- ROL (42_shift.md R602). -/
def effRol (o : Operand) (s : State) : State := modifyOperand (fun f v => rolResult f.c v) rolFlags o s

/-- ROR (42_shift.md R603). -/
def effRor (o : Operand) (s : State) : State := modifyOperand (fun f v => rorResult f.c v) rorFlags o s

/-- ASL, $0A acc (42_shift.md R600). -/
def execAslAcc (s : State) : Host.Outcome State Fault Refusal := .next (effAsl (.acc) s)
/-- ASL, $06 zp (42_shift.md R600). -/
def execAslZp (n : Byte) (s : State) : Host.Outcome State Fault Refusal := .next (effAsl (.zp n) s)
/-- ASL, $16 zpx (42_shift.md R600). -/
def execAslZpx (n : Byte) (s : State) : Host.Outcome State Fault Refusal := .next (effAsl (.zpx n) s)
/-- ASL, $0E abs (42_shift.md R600). -/
def execAslAbs (w : Word) (s : State) : Host.Outcome State Fault Refusal := .next (effAsl (.abs w) s)
/-- ASL, $1E abx (42_shift.md R600). -/
def execAslAbx (w : Word) (s : State) : Host.Outcome State Fault Refusal := .next (effAsl (.abx w) s)

/-- LSR, $4A acc (42_shift.md R601). -/
def execLsrAcc (s : State) : Host.Outcome State Fault Refusal := .next (effLsr (.acc) s)
/-- LSR, $46 zp (42_shift.md R601). -/
def execLsrZp (n : Byte) (s : State) : Host.Outcome State Fault Refusal := .next (effLsr (.zp n) s)
/-- LSR, $56 zpx (42_shift.md R601). -/
def execLsrZpx (n : Byte) (s : State) : Host.Outcome State Fault Refusal := .next (effLsr (.zpx n) s)
/-- LSR, $4E abs (42_shift.md R601). -/
def execLsrAbs (w : Word) (s : State) : Host.Outcome State Fault Refusal := .next (effLsr (.abs w) s)
/-- LSR, $5E abx (42_shift.md R601). -/
def execLsrAbx (w : Word) (s : State) : Host.Outcome State Fault Refusal := .next (effLsr (.abx w) s)

/-- ROL, $2A acc (42_shift.md R602). -/
def execRolAcc (s : State) : Host.Outcome State Fault Refusal := .next (effRol (.acc) s)
/-- ROL, $26 zp (42_shift.md R602). -/
def execRolZp (n : Byte) (s : State) : Host.Outcome State Fault Refusal := .next (effRol (.zp n) s)
/-- ROL, $36 zpx (42_shift.md R602). -/
def execRolZpx (n : Byte) (s : State) : Host.Outcome State Fault Refusal := .next (effRol (.zpx n) s)
/-- ROL, $2E abs (42_shift.md R602). -/
def execRolAbs (w : Word) (s : State) : Host.Outcome State Fault Refusal := .next (effRol (.abs w) s)
/-- ROL, $3E abx (42_shift.md R602). -/
def execRolAbx (w : Word) (s : State) : Host.Outcome State Fault Refusal := .next (effRol (.abx w) s)

/-- ROR, $6A acc (42_shift.md R603). -/
def execRorAcc (s : State) : Host.Outcome State Fault Refusal := .next (effRor (.acc) s)
/-- ROR, $66 zp (42_shift.md R603). -/
def execRorZp (n : Byte) (s : State) : Host.Outcome State Fault Refusal := .next (effRor (.zp n) s)
/-- ROR, $76 zpx (42_shift.md R603). -/
def execRorZpx (n : Byte) (s : State) : Host.Outcome State Fault Refusal := .next (effRor (.zpx n) s)
/-- ROR, $6E abs (42_shift.md R603). -/
def execRorAbs (w : Word) (s : State) : Host.Outcome State Fault Refusal := .next (effRor (.abs w) s)
/-- ROR, $7E abx (42_shift.md R603). -/
def execRorAbx (w : Word) (s : State) : Host.Outcome State Fault Refusal := .next (effRor (.abx w) s)

end Sys2Proof.Machine
end

