-- ==== Sys2Proof/Machine/StackJump.lean ====
section
/-! DEFINITION. Stack, jumps, subroutines, BRK, RTI and NOP (47_stack_jump.md R1102 to R1111): their effects, and one meaning
per row. -/

namespace Sys2Proof.Machine

/-- JMP: PC <- ea (47_stack_jump.md R1106). -/
def effJmp (o : Operand) (s : State) : State :=
  let t := resolve o s
  jumpTo t.1 t.2

/-- JSR: pushes the address of its own last byte, high byte first (47_stack_jump.md R1107). -/
def effJsr (o : Operand) (s : State) : State :=
  let t := resolve o s
  let ret := t.2.pc - 1
  jumpTo t.1 (push (lowByte ret) (push (highByte ret) t.2))

/-- RTS: pulls the address and adds one (47_stack_jump.md R1108). -/
def effRts (s : State) : State :=
  let lo := pull s
  let hi := pull lo.2
  hi.2.setPc (joinBytes hi.1 lo.1 + 1)

/-- PHA, $48 imp (47_stack_jump.md R1102). -/
def execPha (s : State) : Host.Outcome State Fault Refusal := .next (push s.a s)

/-- PHP, $08 imp (47_stack_jump.md R1103): Push(PackP(1)). -/
def execPhp (s : State) : Host.Outcome State Fault Refusal := .next (push (packP true s.flags) s)

/-- PLA, $68 imp (47_stack_jump.md R1104): A <- Pull(), then N and Z. -/
def execPla (s : State) : Host.Outcome State Fault Refusal := .next (setANZ (pull s).1 (pull s).2)

/-- PLP, $28 imp (47_stack_jump.md R1105): UnpackP(Pull()). -/
def execPlp (s : State) : Host.Outcome State Fault Refusal := .next ((pull s).2.setFlags (unpackP (pull s).1))

/-- JMP, $4C abs (47_stack_jump.md R1106). -/
def execJmpAbs (w : Word) (s : State) : Host.Outcome State Fault Refusal := .next (effJmp (.abs w) s)
/-- JMP, $6C ind (47_stack_jump.md R1106). -/
def execJmpInd (w : Word) (s : State) : Host.Outcome State Fault Refusal := .next (effJmp (.ind w) s)

/-- JSR, $20 abs (47_stack_jump.md R1107). -/
def execJsr (w : Word) (s : State) : Host.Outcome State Fault Refusal := .next (effJsr (.abs w) s)

/-- RTS, $60 imp (47_stack_jump.md R1108). -/
def execRts (s : State) : Host.Outcome State Fault Refusal := .next (effRts s)

/-- RTI, $40 imp (47_stack_jump.md R1109): the shared return from an exception. -/
def execRti (s : State) : Host.Outcome State Fault Refusal := .next (returnFromHandler s)

/-- BRK, $00 imp (47_stack_jump.md R1110): pushes the address of BRK + 2, which skips the padding byte, and PackP(1). -/
def execBrk (s : State) : Host.Outcome State Fault Refusal := .next (enterHandler (s.pc + 1) true irqVector s)

/-- NOP, $EA imp (47_stack_jump.md R1111): nothing but the fetch. -/
def execNop (s : State) : Host.Outcome State Fault Refusal := .next s

end Sys2Proof.Machine
end

