-- ==== Sys2Proof/Machine/Fetch.lean ====
section
/-! DEFINITION. Fetching an instruction's bytes through the bus (40_addressing.md R402, R404), and what a step is: the sticky
fault, an NMI entry, an IRQ entry, an undefined opcode or one instruction (40_addressing.md R401, 60_exceptions.md R1606). -/

namespace Sys2Proof.Machine

/-- Fetch8(): v <- MemRead(PC, 1); PC <- PC + 1 (40_addressing.md R402, R404). -/
def fetch8 (s : State) : Byte × State :=
  let r := memRead s.pc s
  (r.1, r.2.setPc (r.2.pc + 1))

/-- What the fetch finds: an instruction with its operand bytes read, or an undefined opcode byte; and the state it leaves,
with the reads' side effects and PC past the bytes read. -/
inductive Fetched where
  | instr (i : Instr) (s : State)
  | undefined (op : Byte) (s : State)
  deriving DecidableEq, Repr

/-- The opcode fetch and the operand fetches of the row's format, in order (40_addressing.md R402 to R416; log 9). -/
def fetchInstr (s : State) : Fetched :=
  let op := fetch8 s
  match opForm op.1 with
  | none => .undefined op.1 op.2
  | some (.f1 i) => .instr i op.2
  | some (.f2 f) =>
    let n := fetch8 op.2
    .instr (f n.1) n.2
  | some (.f3 f) =>
    let lo := fetch8 op.2
    let hi := fetch8 lo.2
    .instr (f (joinBytes hi.1 lo.1)) hi.2

/-- What one step does (40_addressing.md R401, 60_exceptions.md R1606). -/
inductive StepEvent where
  /-- The fault is set: nothing happens (60_exceptions.md R1602). -/
  | halted (f : Fault)
  /-- The NMI is taken (60_exceptions.md R1608). -/
  | nmi
  /-- The IRQ is taken (60_exceptions.md R1609). -/
  | irq
  /-- The opcode byte is undefined; s is the state after its fetch (60_exceptions.md R1601). -/
  | undefined (op : Byte) (s : State)
  /-- One instruction is executed from s, the state after its bytes are fetched. -/
  | instr (i : Instr) (s : State)
  deriving DecidableEq, Repr

/-- The poll and the fetch: the sticky fault first, then NMI, then IRQ unless I masks it, then the fetch. -/
def stepEvent (s : State) : StepEvent :=
  match s.fault with
  | some f => .halted f
  | none =>
    if s.nmiPending then .nmi
    else if s.irqLine && !s.flags.i then .irq
    else
      match fetchInstr s with
      | .undefined op t => .undefined op t
      | .instr i t => .instr i t

/-- A CPU address whose byte the step can be given to fetch: a cell of RAM or cartridge space (20_memory.md R203). -/
def holdsByte (addr : Word) : Bool := decide (addr.toNat ≤ 0x1FFF) || decide (0x4020 ≤ addr.toNat)

/-- Puts a byte in the cell behind an address of RAM or cartridge space, from outside the machine: the cartridge's loading of
its space, and a program placed in RAM, which CART_WRITABLE does not bar (48_ppu_ports.md R1217; log 12). -/
def placeByte (addr : Word) (v : Byte) (s : State) : State :=
  match busRegion s.ramMirror addr with
  | .ram cell => s.setMem (memPut cell v s.mem)
  | .port _ => s
  | .oamDma => s
  | .extIo => s
  | .cart cell => s.setMem (memPut cell v s.mem)

/-- Where an instruction of up to three bytes is placed so that the next step fetches it: at PC where all three bytes have a
cell, else at $8000 in cartridge space (log 12). -/
def fetchPlace (s : State) : Word :=
  if holdsByte s.pc && holdsByte (s.pc + 1) && holdsByte (s.pc + 2) then s.pc else 0x8000

/-- Nothing keeps the next step from fetching: no fault, no NMI pending, no IRQ that I does not mask (log 12). -/
def readyToFetch (s : State) : State :=
  ((s.setFault none).setNmi false).setIrq (s.irqLine && s.flags.i)

end Sys2Proof.Machine
end

