-- ==== Sys2Proof/Machine/Step.lean ====
section
/-! DEFINITION. One step of the CPU (40_addressing.md R400, R401), and the state a step leaves. -/

namespace Sys2Proof.Machine

/-- Step() (40_addressing.md R401; it has no duration, log 16): Ok is a next state, Fault(UndefinedOpcode(op, pc)) a fault. -/
def step (s : State) : Host.Outcome State Fault Refusal :=
  match stepEvent s with
  | .halted f => .fault f
  | .nmi => .next (takeNmi s)
  | .irq => .next (takeIrq s)
  | .undefined op _ => .fault (.undefinedOpcode op s.pc)
  | .instr i t => exec i t

/-- The state a step leaves, also when it answers a fault, which the host's outcome carries without a state: with the fault
recorded and PC at the opcode (60_exceptions.md R1601), unchanged once it is recorded (R1602) (log 10). -/
def leaves (s : State) : State :=
  match stepEvent s with
  | .halted _ => s
  | .nmi => takeNmi s
  | .irq => takeIrq s
  | .undefined op t => haltUndefined op s.pc t
  | .instr i t =>
    match exec i t with
    | .next u => u
    | .fault _ => t
    | .refused _ => t

/-- s with the instruction whose bits are w (numbered as spec/opcode_table.json numbers them, the bits from nbits up 0) placed
where the next step fetches it, and nothing in the way of that fetch (log 12). -/
def State.withFetchWord (s : State) (nbits w : Nat) : State :=
  let v := w % 2 ^ nbits
  let p := fetchPlace s
  let t := (readyToFetch s).setPc p
  placeByte (p + 2) (BitVec.ofNat 8 (v / 65536))
    (placeByte (p + 1) (BitVec.ofNat 8 (v / 256)) (placeByte p (BitVec.ofNat 8 v) t))

end Sys2Proof.Machine
end

