-- ==== Sys2Proof/Machine/Compositor.lean ====
section
/-! DEFINITION. The pattern base selector, the background tile compositor and the sprite compositor
(49_ppu_compositors.md R1300 to R1316). Both compositors read vram without side effects and write only fb. -/

namespace Sys2Proof.Machine

/-- BgBase() (49_ppu_compositors.md R1300). -/
def bgBase (p : Ppu) : Nat := if ctrlBackgroundBase p.ctrl then 0x1000 else 0x0000

/-- SprBase() (49_ppu_compositors.md R1300). -/
def sprBase (p : Ppu) : Nat := if ctrlSpriteBase p.ctrl then 0x1000 else 0x0000

/-- PatPixel(base, p, r, c): the 2-bit colour index 0..3, bit 7 of a row byte the leftmost pixel (49_ppu_compositors.md
R1301). -/
def patPixel (p : Ppu) (base tile r c : Nat) : Nat :=
  let lo := vramRead p (base + 16 * tile + r)
  let hi := vramRead p (base + 16 * tile + 8 + r)
  (if lo.getLsbD (7 - c) then 1 else 0) + (if hi.getLsbD (7 - c) then 2 else 0)

/-- Color(pi): the low 6 bits of the palette byte select the RGB triple, alpha is $FF (49_ppu_compositors.md R1302). -/
def paletteColor (p : Ppu) (pi : Nat) : Pixel :=
  let t := Config.systemPalette ((vramRead p (0x3F00 + pi)).setWidth 6)
  { r := t.r, g := t.g, b := t.b, a := 0xFF }

/-- A write of fb[y][x], dropped outside the frame buffer (49_ppu_compositors.md R1307, R1313). -/
def plot (x y : Int) (px : Pixel) (p : Ppu) : Ppu :=
  if 0 ≤ x ∧ x ≤ 255 ∧ 0 ≤ y ∧ y ≤ 255 then { p with fb := fbPut (256 * y.toNat + x.toNat) px p.fb } else p

/-- fb[y][x] (10_state.md R142). -/
def fbAt (p : Ppu) (x y : Nat) : Pixel := fbGet p.fb (256 * y + x)

/-- The rows and columns 0..7 of a tile. -/
def tilePixels : List (Nat × Nat) := (List.range 8).flatMap fun r => (List.range 8).map fun c => (r, c)

/-- Where the scroll mux finds a tile: quadrant, column, row (49_ppu_compositors.md R1304). -/
structure TilePlace where
  q : Nat
  col : Nat
  row : Nat
  deriving DecidableEq, Repr

/-- The scroll quadrant mux over the 64 by 60 tile plane (49_ppu_compositors.md R1304). -/
def tilePlace (tx ty sx sy ms : Byte) : TilePlace :=
  let wx := (32 * (ms.toNat % 2) + tx.toNat + sx.toNat / 8) % 64
  let wy := (30 * (ms.toNat / 2) + ty.toNat + sy.toNat / 8) % 60
  { q := (if wx ≥ 32 then 1 else 0) + (if wy ≥ 30 then 2 else 0), col := wx % 32, row := wy % 30 }

/-- The tile index at a place of the plane (49_ppu_compositors.md R1304, R1305). -/
def tileIndex (p : Ppu) (t : TilePlace) : Nat := (vramRead p (0x2000 + 0x400 * t.q + 32 * t.row + t.col)).toNat

/-- The 2-bit palette selector at a place of the plane, from the attribute byte of its 4 by 4 block (49_ppu_compositors.md
R1304, R1305). -/
def tileSelector (p : Ppu) (t : TilePlace) : Nat :=
  let abyte := vramRead p (0x2000 + 0x400 * t.q + 0x3C0 + 8 * (t.row / 4) + t.col / 4)
  let sh := (if t.row % 4 ≥ 2 then 4 else 0) + (if t.col % 4 ≥ 2 then 2 else 0)
  abyte.toNat / 2 ^ sh % 4

/-- The background palette index of selector sel and colour index ci, with the backdrop rule (49_ppu_compositors.md R1306). -/
def bgPaletteIndex (sel ci : Nat) : Nat :=
  let pi := 4 * sel + ci
  if pi % 4 = 0 then 0x10 else pi

/-- The background pixel in row r and column c of the tile at a place (49_ppu_compositors.md R1306). -/
def bgPixel (p : Ppu) (t : TilePlace) (r c : Nat) : Pixel :=
  paletteColor p (bgPaletteIndex (tileSelector p t) (patPixel p (bgBase p) (tileIndex p t) r c))

/-- RenderBgTile(tx, ty, sx, sy, ms) (49_ppu_compositors.md R1303 to R1308). -/
def renderBgTile (tx ty sx sy ms : Byte) (p : Ppu) : Ppu :=
  let t := tilePlace tx ty sx sy ms
  tilePixels.foldl (fun q rc =>
    plot (8 * (tx.toNat : Int) + (rc.2 : Int) - ((sx.toNat % 8 : Nat) : Int))
      (8 * (ty.toNat : Int) + (rc.1 : Int) - ((sy.toNat % 8 : Nat) : Int)) (bgPixel p t rc.1 rc.2) q) p

/-- a[1:0], the sprite's palette selector (49_ppu_compositors.md R1310). -/
def spriteSelector (a : Byte) : Nat := a.toNat % 4
/-- a[6], horizontal flip (49_ppu_compositors.md R1310). -/
def spriteHFlip (a : Byte) : Bool := a.getLsbD 6
/-- a[7], vertical flip (49_ppu_compositors.md R1310). -/
def spriteVFlip (a : Byte) : Bool := a.getLsbD 7

/-- The colour index shown in row r and column c of a sprite, by the flip logic (49_ppu_compositors.md R1311). -/
def spriteIndex (p : Ppu) (tile a : Byte) (r c : Nat) : Nat :=
  patPixel p (sprBase p) tile.toNat (if spriteVFlip a then 7 - r else r) (if spriteHFlip a then 7 - c else c)

/-- The pixel shown in row r and column c of a sprite, none where it is transparent (49_ppu_compositors.md R1312, R1313). -/
def spritePixel (p : Ppu) (tile a : Byte) (r c : Nat) : Option Pixel :=
  let ci := spriteIndex p tile a r c
  if ci = 0 then none else some (paletteColor p (0x10 + 4 * spriteSelector a + ci))

/-- RenderSprite(x, y, p, a) (49_ppu_compositors.md R1309 to R1314). -/
def renderSprite (x y tile a : Byte) (p : Ppu) : Ppu :=
  tilePixels.foldl (fun q rc =>
    match spritePixel p tile a rc.1 rc.2 with
    | none => q
    | some px => plot ((x.toNat : Int) + (rc.2 : Int)) ((y.toNat : Int) + (rc.1 : Int)) px q) p

end Sys2Proof.Machine
end

