-- ==== Sys2Proof/Machine/Driver.lean ====
section
/-! DEFINITION. What the external driver does between CPU steps: the PPU hooks and interrupt inputs (48_ppu_ports.md R1215,
R1216), and the render entry points (49_ppu_compositors.md R1303, R1309). -/

namespace Sys2Proof.Machine

/-- BeginVBlank() (48_ppu_ports.md R1215). -/
def beginVBlank (s : State) : State :=
  let t := s.setPpu { s.ppu with vblank := true }
  if ctrlNmi s.ppu.ctrl then t.setNmi true else t

/-- EndVBlank() (48_ppu_ports.md R1215). -/
def endVBlank (s : State) : State := s.setPpu { s.ppu with vblank := false, sprite0Hit := false, spriteOverflow := false }

/-- SetSprite0Hit(b) (48_ppu_ports.md R1215). -/
def setSprite0Hit (b : Bool) (s : State) : State := s.setPpu { s.ppu with sprite0Hit := b }

/-- SetSpriteOverflow(b) (48_ppu_ports.md R1215). -/
def setSpriteOverflow (b : Bool) (s : State) : State := s.setPpu { s.ppu with spriteOverflow := b }

/-- SetScanline(n) (48_ppu_ports.md R1215). -/
def setScanline (n : Nat) (s : State) : State := s.setPpu { s.ppu with scanline := n }

/-- RaiseNMI() (48_ppu_ports.md R1216). -/
def raiseNmi (s : State) : State := s.setNmi true

/-- SetIRQ(b) (48_ppu_ports.md R1216). -/
def setIrqLine (b : Bool) (s : State) : State := s.setIrq b

/-- An entry of OAM as the driver reads it, with no side effect (10_state.md R131, 48_ppu_ports.md R1218). -/
structure OamEntry where
  y : Byte
  tile : Byte
  attr : Byte
  x : Byte
  deriving DecidableEq, Repr

/-- OAM entry k, of 0..63: bytes 4k to 4k + 3 (10_state.md R131). -/
def oamEntry (p : Ppu) (k : Nat) : OamEntry :=
  { y := oamGet p.oam (4 * k), tile := oamGet p.oam (4 * k + 1), attr := oamGet p.oam (4 * k + 2),
    x := oamGet p.oam (4 * k + 3) }

/-- The driver's operations (48_ppu_ports.md R1215, R1216, 49_ppu_compositors.md R1303, R1309). -/
inductive DriverOp where
  | beginVBlank
  | endVBlank
  | setSprite0Hit (b : Bool)
  | setSpriteOverflow (b : Bool)
  | setScanline (n : Nat)
  | raiseNmi
  | setIrq (b : Bool)
  | renderBgTile (tx ty sx sy ms : Byte)
  | renderSprite (x y tile a : Byte)
  deriving DecidableEq, Repr

/-- One operation of the driver. -/
def driverStep (d : DriverOp) (s : State) : State :=
  match d with
  | .beginVBlank => beginVBlank s
  | .endVBlank => endVBlank s
  | .setSprite0Hit b => setSprite0Hit b s
  | .setSpriteOverflow b => setSpriteOverflow b s
  | .setScanline n => setScanline n s
  | .raiseNmi => raiseNmi s
  | .setIrq b => setIrqLine b s
  | .renderBgTile tx ty sx sy ms => s.setPpu (renderBgTile tx ty sx sy ms s.ppu)
  | .renderSprite x y tile a => s.setPpu (renderSprite x y tile a s.ppu)

end Sys2Proof.Machine
end

