-- ==== Sys2Proof/Machine/PowerOn.lean ====
section
/-! DEFINITION. Power-on with a cartridge (70_reset_and_hazards.md R1700, 48_ppu_ports.md R1217). -/

namespace Sys2Proof.Machine

/-- What the cartridge collaborator supplies before the first step (48_ppu_ports.md R1217): bytes of cartridge space, bytes of
the pattern region, and the mirroring mode. -/
structure Cartridge where
  prg : List (Word × Byte)
  chr : List (BitVec 14 × Byte)
  mirroring : Mirroring
  deriving DecidableEq, Repr

/-- The cartridge with nothing in it (logs 3, 5). -/
def Cartridge.empty : Cartridge := { prg := [], chr := [], mirroring := .horizontal }

/-- The cartridge's bytes in $4020-$FFFF; it populates no other CPU address (48_ppu_ports.md R1217; log 13). -/
def loadPrg (prg : List (Word × Byte)) : Memory :=
  prg.foldl (fun m c => if 0x4020 ≤ c.1.toNat then memPut c.1.toNat c.2 m else m) []

/-- The cartridge's bytes in vram[$0000..$1FFF]; it populates no other cell (48_ppu_ports.md R1217; log 13). -/
def loadChr (chr : List (BitVec 14 × Byte)) : List Host.Cell :=
  chr.foldl (fun m c => if c.1.toNat ≤ 0x1FFF then vramPut c.1.toNat c.2 m else m) []

/-- Step 2 of power-on: the cartridge populates memory and fixes MIRRORING (70_reset_and_hazards.md R1700). -/
def populate (c : Cartridge) (s : State) : State :=
  { s with mem := loadPrg c.prg, ppu := { s.ppu with vram := loadChr c.chr, mirroring := c.mirroring } }

/-- Step 3 of power-on: the CPU reset sequence (70_reset_and_hazards.md R1700). -/
def resetSequence (s : State) : State :=
  let v := memRead16 resetVector s
  { v.2 with sp := 0xFD, flags := { v.2.flags with i := true }, fault := none, nmiPending := false, pc := v.1 }

/-- PowerOn() with the parameters RAM_MIRROR and CART_WRITABLE and a cartridge (70_reset_and_hazards.md R1700, 00_scope.md
R11). State.reset supplies the created state of step 1 (10_state.md R150). -/
def powerOn (ramMirror cartWritable : Bool) (c : Cartridge) : State :=
  resetSequence (populate c { State.reset with ramMirror := ramMirror, cartWritable := cartWritable })

end Sys2Proof.Machine
end

