-- ==== Sys2Proof/Machine/System.lean ====
section
/-! DEFINITION. The console as the driver runs it: CPU steps and driver operations, one after another in the driver's order
(20_memory.md R244, 60_exceptions.md R1640, 70_reset_and_hazards.md R1706; log 11). -/

namespace Sys2Proof.Machine

/-- One action of the console: a call of Step(), or one operation of the driver. -/
inductive Action where
  | cpu
  | driver (d : DriverOp)
  deriving DecidableEq, Repr

/-- The state an action leaves; a CPU step that faults leaves the fault recorded (60_exceptions.md R1601). -/
def act (a : Action) (s : State) : State :=
  match a with
  | .cpu => leaves s
  | .driver d => driverStep d s

/-- The state after a schedule of actions: the driver's cadence, an input (20_memory.md R244). -/
def runSchedule : List Action → State → State
  | [], s => s
  | a :: as, s => runSchedule as (act a s)

end Sys2Proof.Machine
end

