-- ==== Sys2Proof/Safety.lean ====
section
/-! DEFINITION. What the claims mean by a well-formed and by a running state. -/

namespace Sys2Proof.Safety

open Sys2Proof.Machine

/-- A cell of the CPU memory: of RAM (of its first 2 KiB where RAM_MIRROR folds it, 20_memory.md R206) or of cartridge
space (R208). No cell stands in $2000-$401F: a port or an I/O address stores nothing (R203). -/
def isCpuCell (ramMirror : Bool) (k : Nat) : Bool :=
  (decide (k ≤ 0x1FFF) && (!ramMirror || decide (k < 0x800))) || (decide (0x4020 ≤ k) && decide (k ≤ 0xFFFF))

/-- The CPU memory is canonical and lists only cells of the bus map (20_memory.md R203). -/
def cpuMemoryWf (s : State) : Bool := Memory.wf s.mem && s.mem.all fun c => isCpuCell s.ramMirror c.1

/-- The canonical cells of vram (20_memory.md R222): the pattern tables, two physical nametables and 28 palette cells. -/
def isVramCell (k : Nat) : Bool :=
  decide (k ≤ 0x27FF) ||
    (decide (0x3F00 ≤ k) && decide (k ≤ 0x3F1F) && !(k == 0x3F10 || k == 0x3F14 || k == 0x3F18 || k == 0x3F1C))

/-- vram is canonical and lists only canonical cells (20_memory.md R222, 10_state.md R130). -/
def vramWf (p : Ppu) : Bool := canonicalCells vramUnlisted p.vram && p.vram.all fun c => isVramCell c.1

/-- OAM is canonical and has 256 bytes (10_state.md R131). -/
def oamWf (p : Ppu) : Bool := canonicalCells noUnlisted p.oam && p.oam.all fun c => decide (c.1 < 256)

/-- The frame buffer is canonical and has 256 * 256 pixels (10_state.md R142). -/
def fbWf (p : Ppu) : Bool := canonicalCells noUnlisted p.fb && p.fb.all fun c => decide (c.1 < 65536)

/-- The invariant of the CORE: its four stores are canonical and hold only cells that exist. -/
def CoreInv (s : State) : Prop :=
  cpuMemoryWf s = true ∧ vramWf s.ppu = true ∧ oamWf s.ppu = true ∧ fbWf s.ppu = true

/-- A state whose next step is not the sticky fault (60_exceptions.md R1602). -/
def Running (s : State) : Prop := s.fault = none

/-- The poll of this state's step lets an instruction be fetched (60_exceptions.md R1606): no fault, no NMI, no IRQ that I
does not mask. -/
def Fetches (s : State) : Prop := s.fault = none ∧ s.nmiPending = false ∧ (s.irqLine = false ∨ s.flags.i = true)

/-- The rows of a mnemonic in the opcode map: the opcode bytes and modes of exactly the instructions that have it, and each of
those bytes decodes to such an instruction. -/
def HasRows (m : Mnemonic) (rows : List (Byte × Mode)) : Prop :=
  (∀ i : Instr, i.mnemonic = m ↔ (i.opcode, i.operand.mode) ∈ rows) ∧
    ∀ r ∈ rows, ∃ i rest, decode [r.1, 0, 0] = .ok i rest ∧ i.mnemonic = m ∧ i.operand.mode = r.2

/-- The 105 undefined opcode bytes, as 30_encoding.md R304 lists them. -/
def undefinedBytes : List Byte :=
  [0x02, 0x03, 0x04, 0x07, 0x0B, 0x0C, 0x0F, 0x12, 0x13, 0x14, 0x17, 0x1A, 0x1B, 0x1C, 0x1F] ++
  [0x22, 0x23, 0x27, 0x2B, 0x2F, 0x32, 0x33, 0x34, 0x37, 0x3A, 0x3B, 0x3C, 0x3F, 0x42, 0x43] ++
  [0x44, 0x47, 0x4B, 0x4F, 0x52, 0x53, 0x54, 0x57, 0x5A, 0x5B, 0x5C, 0x5F, 0x62, 0x63, 0x64] ++
  [0x67, 0x6B, 0x6F, 0x72, 0x73, 0x74, 0x77, 0x7A, 0x7B, 0x7C, 0x7F, 0x80, 0x82, 0x83, 0x87] ++
  [0x89, 0x8B, 0x8F, 0x92, 0x93, 0x97, 0x9B, 0x9C, 0x9E, 0x9F, 0xA3, 0xA7, 0xAB, 0xAF, 0xB2] ++
  [0xB3, 0xB7, 0xBB, 0xBF, 0xC2, 0xC3, 0xC7, 0xCB, 0xCF, 0xD2, 0xD3, 0xD4, 0xD7, 0xDA, 0xDB] ++
  [0xDC, 0xDF, 0xE2, 0xE3, 0xE7, 0xEB, 0xEF, 0xF2, 0xF3, 0xF4, 0xF7, 0xFA, 0xFB, 0xFC, 0xFF]

/-- What a bus read may change (20_memory.md R204): vblank, w, read_buffer, vram_addr, and the model's draw counter. -/
def ReadEffect (s t : State) : Prop :=
  ∃ vb w rb va n, t =
    { s with ppu := { s.ppu with vblank := vb, w := w, readBuffer := rb, vramAddr := va }, draws := n }

/-- The state with D replaced (10_state.md R109). -/
def withD (d : Bool) (s : State) : State := { s with flags := { s.flags with d := d } }

/-- Two CPU addresses select the same thing: the same cell, the same port, or both the external window (20_memory.md R203,
R206). -/
def SameByte (s : State) (a b : Word) : Prop := busRegion s.ramMirror a = busRegion s.ramMirror b

/-- The stack address a byte of S points to: $0100 + S (10_state.md R104). -/
def stackSlot (sp : Byte) : Word := 0x0100 + sp.setWidth 16

/-- The status byte of 10_state.md R113, by the weight of each bit: the break bit is b. -/
def statusOf (b : Bool) (f : Flags) : Byte :=
  BitVec.ofNat 8 (128 * f.n.toNat + 64 * f.v.toNat + 32 + 16 * b.toNat + 8 * f.d.toNat + 4 * f.i.toNat + 2 * f.z.toNat +
    f.c.toNat)

/-- t is s after the pushes of the listed bytes, the first one first, and nothing else, but for PC and the flags
(47_stack_jump.md R1100): the k-th byte stands at $0100 + S - k modulo 256, every other byte reads as before. -/
def Pushed (s t : State) (bytes : List Byte) : Prop :=
  (∀ k b, bytes[k]? = some b → byteAt t (stackSlot (s.sp - BitVec.ofNat 8 k)) = some b) ∧
    (∀ a : Word, (∀ k, k < bytes.length → ¬ SameByte s a (stackSlot (s.sp - BitVec.ofNat 8 k))) →
      byteAt t a = byteAt s a) ∧
    t = { s with mem := t.mem, sp := s.sp - BitVec.ofNat 8 bytes.length, pc := t.pc, flags := t.flags }

/-- t is s after an entry through the vector at vec with the return address ret and the status byte st pushed
(60_exceptions.md R1607). -/
def EntersHandler (s t : State) (ret : Word) (st : Byte) (vec : Word) : Prop :=
  Pushed s t [(ret >>> 8).setWidth 8, ret.setWidth 8, st] ∧ t.flags = { s.flags with i := true } ∧
    ∃ lo hi : Byte, byteAt s vec = some lo ∧ byteAt s (vec + 1) = some hi ∧
      t.pc = BitVec.ofNat 16 (256 * hi.toNat + lo.toNat)

/-- What no step and no instruction changes: the state that only the driver or the cartridge writes (10_state.md R118, R132,
R135, R141, R142), the parameters, and vblank but for its clearing. -/
def KeepsDriverState (s t : State) : Prop :=
  t.irqLine = s.irqLine ∧ t.ramMirror = s.ramMirror ∧ t.cartWritable = s.cartWritable ∧
    t.ppu.mirroring = s.ppu.mirroring ∧ t.ppu.sprite0Hit = s.ppu.sprite0Hit ∧
    t.ppu.spriteOverflow = s.ppu.spriteOverflow ∧ t.ppu.scanline = s.ppu.scanline ∧ t.ppu.fb = s.ppu.fb ∧
    (t.ppu.vblank = true → s.ppu.vblank = true)

/-- The mnemonics that store to the address of their operand, in a memory mode. -/
def storesToOperand (m : Mnemonic) : Bool :=
  [Mnemonic.sta, .stx, .sty, .asl, .lsr, .rol, .ror, .inc, .dec].contains m

/-- The mnemonics that push (10_state.md R104). -/
def pushes (m : Mnemonic) : Bool := [Mnemonic.pha, .php, .jsr, .brk].contains m

/-- The number of bytes a mnemonic pushes (47_stack_jump.md R1102, R1103, R1107, R1110). -/
def pushCount (m : Mnemonic) : Nat :=
  match m with
  | .pha => 1
  | .php => 1
  | .jsr => 2
  | .brk => 3
  | _ => 0

end Sys2Proof.Safety
end

