-- ==== Sys2Proof/Certificates/Slice0/Obligations.lean ====
section
/-! DEFINITION. The statements for the provers. Each formalises a rule of spec/ or is derived from its sections; the docstring
says what it states. Where a rule leaves a value open (a draw), the statement holds for every value. -/

section Statements

open Sys2Proof Sys2Proof.Machine Sys2Proof.Safety

/-- For every well-formed instruction, with its operand at every value, and for any bytes after it, the decoder reads its
encoding as that instruction and leaves exactly the bytes after it. (derived from 30_encoding.md R300, 30_encoding.md
R301, 30_encoding.md R302, 30_encoding.md R303) -/
def Obligations.DecodeUndoesEncode : Prop :=
  ∀ (i : Instr) (rest : List Byte), i.wellFormed = true → decode (encode i ++ rest) = .ok i rest

/-- Where the decoder reads an instruction from some bytes, the instruction is well formed, the bytes begin with its
encoding and the rest is what the decoder leaves, and the encoding is one, two or three bytes long as the addressing mode
says. (derived from 30_encoding.md R300, 30_encoding.md R301, 30_encoding.md R302) -/
def Obligations.EncodeUndoesDecode : Prop :=
  ∀ (bytes rest : List Byte) (i : Instr), decode bytes = .ok i rest →
    i.wellFormed = true ∧ bytes = encode i ++ rest ∧ (encode i).length = i.operand.mode.length

/-- The 105 listed bytes are distinct. The decoder refuses an opcode byte as undefined, whatever follows it, exactly when
it is listed, and every byte that is not listed is the opcode of an instruction. A BRK is decoded from its one byte,
whatever byte follows it. (stated: R305) -/
def Obligations.EveryByteIsARowOrUndefined : Prop :=
  undefinedBytes.length = 105 ∧ undefinedBytes.Nodup ∧
    (∀ (op : Byte) (rest : List Byte), decode (op :: rest) = .undefinedOpcode op ↔ op ∈ undefinedBytes) ∧
    (∀ op : Byte, op ∉ undefinedBytes ↔ ∃ i : Instr, i.opcode = op) ∧
    (∀ rest : List Byte, decode (0x00 :: rest) = .ok .brk rest)

/-- For one instruction or two of each family, the bytes written out bit by bit from the opcode table decode to that
instruction. (derived from 30_encoding.md R303, 30_encoding.md R302) -/
def Obligations.WrittenOutWordsDecode : Prop :=
  decode [0b00001001#8, 0b11110000#8] = .ok (.oraImm 0xF0) [] ∧
    decode [0b00101100#8, 0b00000010#8, 0b00100000#8] = .ok (.bitAbs 0x2002) [] ∧
    decode [0b01101110#8, 0b00000000#8, 0b00000011#8] = .ok (.rorAbs 0x0300) [] ∧
    decode [0b00001010#8] = .ok .aslAcc [] ∧
    decode [0b00010000#8, 0b11111110#8] = .ok (.bpl 0xFE) [] ∧
    decode [0b01111000#8] = .ok .sei [] ∧
    decode [0b01100001#8, 0b11111111#8] = .ok (.adcIzx 0xFF) [] ∧
    decode [0b11010001#8, 0b00100000#8] = .ok (.cmpIzy 0x20) [] ∧
    decode [0b10110110#8, 0b11111111#8] = .ok (.ldxZpy 0xFF) [] ∧
    decode [0b10011101#8, 0b00110100#8, 0b00010010#8] = .ok (.staAbx 0x1234) [] ∧
    decode [0b10011010#8] = .ok .txs [] ∧
    decode [0b01101100#8, 0b11111111#8, 0b00000010#8] = .ok (.jmpInd 0x02FF) [] ∧
    decode [0b00100000#8, 0b00000000#8, 0b10010000#8] = .ok (.jsr 0x9000) []

/-- In a state whose poll lets an instruction be fetched, when the bytes stored from PC on (addresses wrapping modulo
65536) decode to an instruction, that instruction is well formed and the step is exec of it on the state with PC advanced
past its bytes and nothing else changed. (derived from 40_addressing.md R401, 40_addressing.md R402, 40_addressing.md
R404, 30_encoding.md R301) -/
def Obligations.StepRunsTheDecodedInstruction : Prop :=
  ∀ (s : State) (i : Instr) (bytes : List Byte), Fetches s → decode bytes = .ok i [] →
    (∀ k b, bytes[k]? = some b → byteAt s (s.pc + BitVec.ofNat 16 k) = some b) →
      i.wellFormed = true ∧ step s = exec i (s.setPc (s.pc + BitVec.ofNat 16 bytes.length))

/-- In a state whose poll lets an instruction be fetched, the opcode byte is read by one bus read at PC, the operand bytes
of its row by one bus read each at the next addresses (modulo 65536), in order, each seeing what the read before it
changed, and the step is exec of the row's instruction with those operand bytes and PC past them. The order of the operand
fetches, before the instruction's other accesses, and an immediate's byte read by the fetch are the model's reading of
R404, R406 and R18 (log 9, DEDUCED). (derived from 40_addressing.md R402, 40_addressing.md R403, 40_addressing.md R404,
40_addressing.md R406, 40_addressing.md R410, 30_encoding.md R300, 00_scope.md R18) -/
def Obligations.FetchGoesThroughTheBus : Prop :=
  ∀ (s : State) (i : Instr), Fetches s → (memRead s.pc s).1 = i.opcode →
    (i.operand.bytes = [] → step s = exec i ((memRead s.pc s).2.setPc (s.pc + 1))) ∧
    (∀ n t, i.operand.bytes = [n] → memRead (s.pc + 1) (memRead s.pc s).2 = (n, t) →
      step s = exec i (t.setPc (s.pc + 2))) ∧
    (∀ lo hi t u, i.operand.bytes = [lo, hi] → memRead (s.pc + 1) (memRead s.pc s).2 = (lo, t) →
      memRead (s.pc + 2) t = (hi, u) → step s = exec i (u.setPc (s.pc + 3)))

/-- When STA absolute stores, at the address of the next instruction, the opcode byte of a one-byte instruction, and that
address is RAM or writable cartridge space, the next step executes that instruction. (derived from 20_memory.md R242,
70_reset_and_hazards.md R1710) -/
def Obligations.StoreIsSeenByTheNextFetch : Prop :=
  ∀ (s : State) (i : Instr), Fetches s → Memory.wf s.mem = true → i.operand.bytes = [] → s.a = i.opcode →
    (s.pc.toNat ≤ 0x1FFF ∨ 0x4020 ≤ s.pc.toNat ∧ s.cartWritable = true) →
      ∃ t, exec (.staAbs s.pc) s = .next t ∧ step t = exec i (t.setPc (s.pc + 1))

/-- In a state with no fault: with an NMI pending the step is the NMI entry; otherwise with the IRQ line asserted and I
clear it is the IRQ entry; otherwise it is exec of the instruction that the fetch reads, whose opcode byte is the one read
at PC, on the state the fetch leaves, which has PC past the instruction and differs in nothing else but what bus reads
change, or it is the undefined-opcode fault of that byte. That a step is a fetch and then exec is the model's split of it
(log 9, DEDUCED). (derived from 60_exceptions.md R1606, 60_exceptions.md R1601, 40_addressing.md R401, 40_addressing.md
R402, 40_addressing.md R404) -/
def Obligations.PollOrder : Prop :=
  ∀ s : State, s.fault = none →
    (s.nmiPending = true → step s = .next (takeNmi s)) ∧
    (s.nmiPending = false → s.irqLine = true → s.flags.i = false → step s = .next (takeIrq s)) ∧
    (s.nmiPending = false → (s.irqLine = false ∨ s.flags.i = true) →
      (∃ i t, fetchInstr s = .instr i t ∧ i.opcode = (memRead s.pc s).1 ∧
        t.pc = s.pc + BitVec.ofNat 16 i.operand.mode.length ∧ ReadEffect (s.setPc t.pc) t ∧ step s = exec i t) ∨
      ((memRead s.pc s).1 ∈ undefinedBytes ∧ step s = .fault (.undefinedOpcode (memRead s.pc s).1 s.pc)))

/-- With no fault and an NMI pending, the step pushes the high byte of PC, its low byte and the status byte with bit 5 set
and bit 4 clear at $0100 + S downward (wrapping in page 1), sets I and no other flag, clears nmi_pending, loads PC from
$FFFA and $FFFB, and changes nothing else. With no NMI pending, the IRQ line asserted and I clear, it does the same
through $FFFE and $FFFF and leaves the IRQ line as it is. (stated: R1607, R1608, R1609) -/
def Obligations.InterruptEntry : Prop :=
  ∀ s : State, s.fault = none → Memory.wf s.mem = true →
    (s.nmiPending = true → ∃ t, step s = .next t ∧
      EntersHandler { s with nmiPending := false } t s.pc (statusOf false s.flags) 0xFFFA) ∧
    (s.nmiPending = false → s.irqLine = true → s.flags.i = false → ∃ t, step s = .next t ∧
      EntersHandler s t s.pc (statusOf false s.flags) 0xFFFE ∧ t.irqLine = true)

/-- In a state whose poll lets an instruction be fetched, when the byte read at PC is one of the 105 undefined bytes, the
step is the fault that names the byte and PC, and the state it leaves is the state before but for the side effect of that
one read and the fault record: PC is as before. (stated: R1601, R1603) -/
def Obligations.UndefinedOpcodeFaults : Prop :=
  ∀ s : State, Fetches s → (memRead s.pc s).1 ∈ undefinedBytes →
    step s = .fault (.undefinedOpcode (memRead s.pc s).1 s.pc) ∧
    leaves s = { (memRead s.pc s).2 with fault := some (.undefinedOpcode (memRead s.pc s).1 s.pc) } ∧
    (leaves s).pc = s.pc ∧ ReadEffect s (memRead s.pc s).2

/-- In a state with a fault recorded, the step answers that fault and leaves the state as it is, a pending NMI or IRQ is
not taken, and after any schedule of steps and driver operations the same fault is still recorded. (stated: R1602) -/
def Obligations.FaultIsSticky : Prop :=
  ∀ (s : State) (f : Fault), s.fault = some f →
    step s = .fault f ∧ leaves s = s ∧
    ∀ schedule : List Action, (runSchedule schedule s).fault = some f ∧ step (runSchedule schedule s) = .fault f

/-- No step is refused. A step that faults either repeats the fault that is already recorded, or its poll let an
instruction be fetched and the byte read at PC is one of the 105 undefined bytes, and the fault names that byte and PC.
(derived from 60_exceptions.md R1600, 60_exceptions.md R1620, 20_memory.md R230) -/
def Obligations.OnlyAnUndefinedOpcodeStops : Prop :=
  ∀ s : State, (∀ r, step s ≠ .refused r) ∧
    ∀ f, step s = .fault f →
      s.fault = some f ∨
      (Fetches s ∧ (memRead s.pc s).1 ∈ undefinedBytes ∧ f = .undefinedOpcode (memRead s.pc s).1 s.pc)

/-- From every state, in every addressing mode and with every operand, every instruction answers a next state. That state
has the same fault record, IRQ line, parameters, mirroring mode, sprite status bits, scanline and frame buffer, and vblank
is not set where it was clear. (derived from 60_exceptions.md R1600, 60_exceptions.md R1620, 10_state.md R118, 10_state.md
R132, 10_state.md R135, 10_state.md R141, 49_ppu_compositors.md R1316) -/
def Obligations.EveryInstructionCompletes : Prop :=
  ∀ (i : Instr) (s : State), ∃ t, exec i s = .next t ∧ t.fault = s.fault ∧ KeepsDriverState s t

/-- ORA, AND and EOR have exactly their listed opcode bytes and modes. Each reads its operand byte M, sets A to A or M, A
and M, A exclusive-or M, sets N to bit 7 of the result and Z where it is zero, and changes nothing else but what that read
changes. (stated: R500, R501, R502) -/
def Obligations.OraAndEorResults : Prop :=
  HasRows .ora [(0x09, .imm), (0x05, .zp), (0x15, .zpx), (0x0D, .abs), (0x1D, .abx), (0x19, .aby), (0x01, .izx), (0x11, .izy)] ∧
    HasRows .and [(0x29, .imm), (0x25, .zp), (0x35, .zpx), (0x2D, .abs), (0x3D, .abx), (0x39, .aby), (0x21, .izx), (0x31, .izy)] ∧
    HasRows .eor [(0x49, .imm), (0x45, .zp), (0x55, .zpx), (0x4D, .abs), (0x5D, .abx), (0x59, .aby), (0x41, .izx), (0x51, .izy)] ∧
    ∀ (i : Instr) (s t : State) (m r : Byte), loadOperand i.operand s = (m, t) →
      (i.mnemonic = .ora ∧ r = s.a ||| m ∨ i.mnemonic = .and ∧ r = s.a &&& m ∨ i.mnemonic = .eor ∧ r = s.a ^^^ m) →
        exec i s = .next { t with
          a := r
          flags := { s.flags with n := decide (128 ≤ r.toNat), z := decide (r = 0) } }

/-- BIT has its two listed opcode bytes. It reads its operand byte M, sets Z where A and M have no common bit, N to bit 7
and V to bit 6 of M, and changes nothing else but what that read changes. (stated: R503) -/
def Obligations.BitResult : Prop :=
  HasRows .bit [(0x24, .zp), (0x2C, .abs)] ∧
    ∀ (i : Instr) (s t : State) (m : Byte), loadOperand i.operand s = (m, t) → i.mnemonic = .bit →
      exec i s = .next { t with
        flags := { s.flags with
          z := decide (s.a &&& m = 0), n := decide (128 ≤ m.toNat), v := decide (64 ≤ m.toNat % 128) } }

/-- The four instructions have exactly their listed opcode bytes and modes. Each reads its operand once, stores the
shifted or rotated byte once to the same place (A in accumulator mode), sets C to the bit shifted out (bit 7 for ASL and
ROL, bit 0 for LSR and ROR), and N and Z from the result. ROL and ROR bring the old C into bit 0 and bit 7. V, D and I are
unchanged. (stated: R600, R601, R602, R603) -/
def Obligations.ShiftResults : Prop :=
  HasRows .asl [(0x0A, .acc), (0x06, .zp), (0x16, .zpx), (0x0E, .abs), (0x1E, .abx)] ∧
    HasRows .lsr [(0x4A, .acc), (0x46, .zp), (0x56, .zpx), (0x4E, .abs), (0x5E, .abx)] ∧
    HasRows .rol [(0x2A, .acc), (0x26, .zp), (0x36, .zpx), (0x2E, .abs), (0x3E, .abx)] ∧
    HasRows .ror [(0x6A, .acc), (0x66, .zp), (0x76, .zpx), (0x6E, .abs), (0x7E, .abx)] ∧
    ∀ (i : Instr) (s t u : State) (ea : Resolved) (v r : Byte) (c : Bool),
      resolve i.operand s = (ea, t) → operandAt ea t = (v, u) →
      (i.mnemonic = .asl ∧ r.toNat = 2 * v.toNat % 256 ∧ c = decide (128 ≤ v.toNat) ∨
        i.mnemonic = .lsr ∧ r.toNat = v.toNat / 2 ∧ c = decide (v.toNat % 2 = 1) ∨
        i.mnemonic = .rol ∧ r.toNat = (2 * v.toNat + s.flags.c.toNat) % 256 ∧ c = decide (128 ≤ v.toNat) ∨
        i.mnemonic = .ror ∧ r.toNat = v.toNat / 2 + 128 * s.flags.c.toNat ∧ c = decide (v.toNat % 2 = 1)) →
          exec i s = .next { storeAt ea r u with
            flags := { s.flags with c := c, n := decide (128 ≤ r.toNat), z := decide (r = 0) } }

/-- Each of the eight branches has its one opcode byte. With PC past the operand, it sets PC to PC plus the offset read as
a signed byte (modulo 65536) when its condition on N, V, C or Z holds, leaves PC otherwise, and changes nothing else.
(stated: R700, R701, R702, R703, R704, R705, R706, R707, R708) -/
def Obligations.BranchResults : Prop :=
  HasRows .bpl [(0x10, .rel)] ∧ HasRows .bmi [(0x30, .rel)] ∧ HasRows .bvc [(0x50, .rel)] ∧ HasRows .bvs [(0x70, .rel)] ∧
    HasRows .bcc [(0x90, .rel)] ∧ HasRows .bcs [(0xB0, .rel)] ∧ HasRows .bne [(0xD0, .rel)] ∧ HasRows .beq [(0xF0, .rel)] ∧
    ∀ (s : State) (off : Byte) (i : Instr) (cond : Bool),
      (i, cond) ∈ [(Instr.bpl off, !s.flags.n), (.bmi off, s.flags.n), (.bvc off, !s.flags.v), (.bvs off, s.flags.v),
        (.bcc off, !s.flags.c), (.bcs off, s.flags.c), (.bne off, !s.flags.z), (.beq off, s.flags.z)] →
        exec i s = .next { s with pc := if cond then BitVec.ofInt 16 (s.pc.toNat + off.toInt) else s.pc }

/-- CLC, SEC, CLI, SEI, CLV, CLD and SED have their one opcode byte each, write their one flag and change nothing else.
With the IRQ line asserted, no fault and no NMI pending, the step after CLI takes the IRQ and the step after SEI does not
poll it in. A pending NMI is taken after SEI all the same. (stated: R800, R801, R802, R803, R804, R805, R806) -/
def Obligations.FlagInstructionResults : Prop :=
  HasRows .clc [(0x18, .imp)] ∧ HasRows .sec [(0x38, .imp)] ∧ HasRows .cli [(0x58, .imp)] ∧ HasRows .sei [(0x78, .imp)] ∧
    HasRows .clv [(0xB8, .imp)] ∧ HasRows .cld [(0xD8, .imp)] ∧ HasRows .sed [(0xF8, .imp)] ∧
    ∀ s : State,
      exec .clc s = .next { s with flags := { s.flags with c := false } } ∧
      exec .sec s = .next { s with flags := { s.flags with c := true } } ∧
      exec .cli s = .next { s with flags := { s.flags with i := false } } ∧
      exec .sei s = .next { s with flags := { s.flags with i := true } } ∧
      exec .clv s = .next { s with flags := { s.flags with v := false } } ∧
      exec .cld s = .next { s with flags := { s.flags with d := false } } ∧
      exec .sed s = .next { s with flags := { s.flags with d := true } } ∧
      (s.fault = none → s.irqLine = true → s.nmiPending = false →
        (∀ t, exec .cli s = .next t → step t = .next (takeIrq t)) ∧ (∀ t, exec .sei s = .next t → Fetches t)) ∧
      (s.fault = none → s.nmiPending = true → ∀ t, exec .sei s = .next t → step t = .next (takeNmi t))

/-- ADC has exactly its listed opcode bytes and modes. It reads its operand byte M, sets A to A + M + C modulo 256, C
where the sum exceeds 255, V where the signed reading of the result differs from the signed sum (equally, where the
operands agree in sign and the result does not), N and Z from the result, whatever D is, and changes nothing else but what
that read changes. (stated: R901) -/
def Obligations.AdcResult : Prop :=
  HasRows .adc [(0x69, .imm), (0x65, .zp), (0x75, .zpx), (0x6D, .abs), (0x7D, .abx), (0x79, .aby), (0x61, .izx), (0x71, .izy)] ∧
    ∀ (i : Instr) (s t : State) (m r : Byte) (sum : Nat) (c v : Bool), loadOperand i.operand s = (m, t) →
      i.mnemonic = .adc → sum = s.a.toNat + m.toNat + s.flags.c.toNat → r.toNat = sum % 256 → c = decide (255 < sum) →
      v = decide (r.toInt ≠ s.a.toInt + m.toInt + s.flags.c.toNat) →
        v = decide ((~~~(s.a ^^^ m) &&& (s.a ^^^ r) &&& 0x80) ≠ 0) ∧
        exec i s = .next { t with
          a := r
          flags := { s.flags with c := c, v := v, n := decide (128 ≤ r.toNat), z := decide (r = 0) } }

/-- SBC has exactly its listed opcode bytes and modes. It reads its operand byte M, sets A to A - M - (1 - C) modulo 256,
C where the difference is not negative, V where the signed reading of the result differs from the signed difference
(equally, where the operands differ in sign and the result has the sign of M), N and Z from the result, whatever D is. SBC
of M is ADC of the complement of M. (stated: R902) -/
def Obligations.SbcResult : Prop :=
  HasRows .sbc [(0xE9, .imm), (0xE5, .zp), (0xF5, .zpx), (0xED, .abs), (0xFD, .abx), (0xF9, .aby), (0xE1, .izx), (0xF1, .izy)] ∧
    (∀ (i : Instr) (s t : State) (m r : Byte) (diff : Int) (c v : Bool), loadOperand i.operand s = (m, t) →
      i.mnemonic = .sbc → diff = (s.a.toNat : Int) - m.toNat - (1 - s.flags.c.toNat) → (r.toNat : Int) = diff % 256 →
      c = decide (0 ≤ diff) → v = decide (r.toInt ≠ s.a.toInt - m.toInt - (1 - s.flags.c.toNat)) →
        v = decide (((s.a ^^^ m) &&& (s.a ^^^ r) &&& 0x80) ≠ 0) ∧
        exec i s = .next { t with
          a := r
          flags := { s.flags with c := c, v := v, n := decide (128 ≤ r.toNat), z := decide (r = 0) } }) ∧
    ∀ (m : Byte) (s : State), exec (.sbcImm m) s = exec (.adcImm (~~~m)) s

/-- CMP, CPX and CPY have exactly their listed opcode bytes and modes. With R the value of A, X or Y and M the operand
byte, C is set where R is at least M unsigned, Z where they are equal, N to bit 7 of R - M modulo 256. Nothing else
changes but what the operand read changes. (stated: R903, R904, R905, R906) -/
def Obligations.CompareResults : Prop :=
  HasRows .cmp [(0xC9, .imm), (0xC5, .zp), (0xD5, .zpx), (0xCD, .abs), (0xDD, .abx), (0xD9, .aby), (0xC1, .izx), (0xD1, .izy)] ∧
    HasRows .cpx [(0xE0, .imm), (0xE4, .zp), (0xEC, .abs)] ∧
    HasRows .cpy [(0xC0, .imm), (0xC4, .zp), (0xCC, .abs)] ∧
    ∀ (i : Instr) (s t : State) (m r : Byte), loadOperand i.operand s = (m, t) →
      (i.mnemonic = .cmp ∧ r = s.a ∨ i.mnemonic = .cpx ∧ r = s.x ∨ i.mnemonic = .cpy ∧ r = s.y) →
        exec i s = .next { t with
          flags := { s.flags with
            c := decide (m.toNat ≤ r.toNat), z := decide (m.toNat = r.toNat)
            n := decide (128 ≤ (256 + r.toNat - m.toNat) % 256) } }

/-- INC and DEC have exactly their listed opcode bytes and modes. Each reads the byte at its effective address once,
writes the byte plus one or minus one (modulo 256) to the same address once, sets N and Z from the result, and changes no
other flag and no register. (stated: R907, R908) -/
def Obligations.IncDecMemoryResults : Prop :=
  HasRows .inc [(0xE6, .zp), (0xF6, .zpx), (0xEE, .abs), (0xFE, .abx)] ∧
    HasRows .dec [(0xC6, .zp), (0xD6, .zpx), (0xCE, .abs), (0xDE, .abx)] ∧
    ∀ (i : Instr) (s : State), (i.mnemonic = .inc ∨ i.mnemonic = .dec) →
      ∃ ea, resolve i.operand s = (.addr ea, s) ∧
        ∀ (v r : Byte) (u : State), memRead ea s = (v, u) →
          (i.mnemonic = .inc ∧ r.toNat = (v.toNat + 1) % 256 ∨ i.mnemonic = .dec ∧ r.toNat = (v.toNat + 255) % 256) →
            exec i s = .next { memWrite ea r u with
              flags := { s.flags with n := decide (128 ≤ r.toNat), z := decide (r = 0) } }

/-- INX, INY, DEX and DEY have their one opcode byte each, add one to or subtract one from X or Y modulo 256, set N and Z
from the result, and change nothing else. (stated: R909, R910, R911, R912) -/
def Obligations.IncDecRegisterResults : Prop :=
  HasRows .inx [(0xE8, .imp)] ∧ HasRows .iny [(0xC8, .imp)] ∧ HasRows .dex [(0xCA, .imp)] ∧ HasRows .dey [(0x88, .imp)] ∧
    ∀ (s : State) (r : Byte),
      (r.toNat = (s.x.toNat + 1) % 256 → exec .inx s = .next { s with
        x := r, flags := { s.flags with n := decide (128 ≤ r.toNat), z := decide (r.toNat = 0) } }) ∧
      (r.toNat = (s.y.toNat + 1) % 256 → exec .iny s = .next { s with
        y := r, flags := { s.flags with n := decide (128 ≤ r.toNat), z := decide (r.toNat = 0) } }) ∧
      (r.toNat = (s.x.toNat + 255) % 256 → exec .dex s = .next { s with
        x := r, flags := { s.flags with n := decide (128 ≤ r.toNat), z := decide (r.toNat = 0) } }) ∧
      (r.toNat = (s.y.toNat + 255) % 256 → exec .dey s = .next { s with
        y := r, flags := { s.flags with n := decide (128 ≤ r.toNat), z := decide (r.toNat = 0) } })

/-- LDA, LDX and LDY have exactly their listed opcode bytes and modes, the indexed forms of LDX by Y and those of LDY by
X. Each reads its operand byte into its register, sets N to bit 7 and Z where the byte is zero, and changes nothing else
but what that read changes. (stated: R1000, R1001, R1002) -/
def Obligations.LoadResults : Prop :=
  HasRows .lda [(0xA9, .imm), (0xA5, .zp), (0xB5, .zpx), (0xAD, .abs), (0xBD, .abx), (0xB9, .aby), (0xA1, .izx), (0xB1, .izy)] ∧
    HasRows .ldx [(0xA2, .imm), (0xA6, .zp), (0xB6, .zpy), (0xAE, .abs), (0xBE, .aby)] ∧
    HasRows .ldy [(0xA0, .imm), (0xA4, .zp), (0xB4, .zpx), (0xAC, .abs), (0xBC, .abx)] ∧
    ∀ (i : Instr) (s t : State) (m : Byte) (f : Flags), loadOperand i.operand s = (m, t) →
      f = { s.flags with n := decide (128 ≤ m.toNat), z := decide (m = 0) } →
        (i.mnemonic = .lda → exec i s = .next { t with a := m, flags := f }) ∧
        (i.mnemonic = .ldx → exec i s = .next { t with x := m, flags := f }) ∧
        (i.mnemonic = .ldy → exec i s = .next { t with y := m, flags := f })

/-- STA, STX and STY have exactly their listed opcode bytes and modes. Each makes one bus write of its register to its
effective address, reads nothing there, writes no flag and no register, and changes nothing else but what that write
changes. (stated: R1003, R1004, R1005) -/
def Obligations.StoreResults : Prop :=
  HasRows .sta [(0x85, .zp), (0x95, .zpx), (0x8D, .abs), (0x9D, .abx), (0x99, .aby), (0x81, .izx), (0x91, .izy)] ∧
    HasRows .stx [(0x86, .zp), (0x96, .zpy), (0x8E, .abs)] ∧
    HasRows .sty [(0x84, .zp), (0x94, .zpx), (0x8C, .abs)] ∧
    ∀ (i : Instr) (s : State) (v : Byte),
      (i.mnemonic = .sta ∧ v = s.a ∨ i.mnemonic = .stx ∧ v = s.x ∨ i.mnemonic = .sty ∧ v = s.y) →
        ∃ ea, resolve i.operand s = (.addr ea, s) ∧ exec i s = .next (memWrite ea v s) ∧
          (memWrite ea v s).flags = s.flags

/-- TAX, TAY, TXA, TYA, TSX and TXS have their one opcode byte each and copy their source register to their destination,
with N and Z from the value but for TXS, which writes no flag. NOP has its one opcode byte and changes nothing. Nothing
else changes. (stated: R1006, R1007, R1008, R1009, R1010, R1011, R1111) -/
def Obligations.TransferAndNopResults : Prop :=
  HasRows .tax [(0xAA, .imp)] ∧ HasRows .tay [(0xA8, .imp)] ∧ HasRows .txa [(0x8A, .imp)] ∧ HasRows .tya [(0x98, .imp)] ∧
    HasRows .tsx [(0xBA, .imp)] ∧ HasRows .txs [(0x9A, .imp)] ∧ HasRows .nop [(0xEA, .imp)] ∧
    ∀ s : State,
      exec .tax s = .next { s with
        x := s.a, flags := { s.flags with n := decide (128 ≤ s.a.toNat), z := decide (s.a = 0) } } ∧
      exec .tay s = .next { s with
        y := s.a, flags := { s.flags with n := decide (128 ≤ s.a.toNat), z := decide (s.a = 0) } } ∧
      exec .txa s = .next { s with
        a := s.x, flags := { s.flags with n := decide (128 ≤ s.x.toNat), z := decide (s.x = 0) } } ∧
      exec .tya s = .next { s with
        a := s.y, flags := { s.flags with n := decide (128 ≤ s.y.toNat), z := decide (s.y = 0) } } ∧
      exec .tsx s = .next { s with
        x := s.sp, flags := { s.flags with n := decide (128 ≤ s.sp.toNat), z := decide (s.sp = 0) } } ∧
      exec .txs s = .next { s with sp := s.x } ∧
      exec .nop s = .next s

/-- PHA and PHP have their one opcode byte each. Each writes its byte at $0100 + S and then decrements S modulo 256 (S = 0
writes $0100 and leaves S = $FF). PHA pushes A, PHP the status byte with bits 5 and 4 set. No flag, no other register and
no other byte changes. (stated: R1100, R1102, R1103) -/
def Obligations.PushInstructionResults : Prop :=
  HasRows .pha [(0x48, .imp)] ∧ HasRows .php [(0x08, .imp)] ∧
    ∀ s : State, Memory.wf s.mem = true →
      (∃ t, exec .pha s = .next t ∧ Pushed s t [s.a] ∧ t.pc = s.pc ∧ t.flags = s.flags) ∧
      (∃ t, exec .php s = .next t ∧ Pushed s t [statusOf true s.flags] ∧ t.pc = s.pc ∧ t.flags = s.flags)

/-- PLA, PLP and RTI have their one opcode byte each. Each pull increments S modulo 256 and then reads at $0100 + S (S =
$FF reads $0100). PLA puts the byte in A and sets N and Z from it. PLP sets the six flags from bits 7, 6, 3, 2, 1 and 0
and ignores bits 5 and 4. RTI does so and then pulls the low and the high byte of PC, adding nothing. Nothing else
changes. (stated: R1101, R1104, R1105, R1109) -/
def Obligations.PullInstructionResults : Prop :=
  HasRows .pla [(0x68, .imp)] ∧ HasRows .plp [(0x28, .imp)] ∧ HasRows .rti [(0x40, .imp)] ∧
    ∀ s : State, ∃ v lo hi : Byte, byteAt s (stackSlot (s.sp + 1)) = some v ∧
      byteAt s (stackSlot (s.sp + 2)) = some lo ∧ byteAt s (stackSlot (s.sp + 3)) = some hi ∧
      exec .pla s = .next { s with
        a := v, sp := s.sp + 1, flags := { s.flags with n := decide (128 ≤ v.toNat), z := decide (v = 0) } } ∧
      exec .plp s = .next { s with
        sp := s.sp + 1
        flags := { n := v.getLsbD 7, v := v.getLsbD 6, d := v.getLsbD 3, i := v.getLsbD 2, z := v.getLsbD 1,
                   c := v.getLsbD 0 } } ∧
      exec .rti s = .next { s with
        sp := s.sp + 3
        flags := { n := v.getLsbD 7, v := v.getLsbD 6, d := v.getLsbD 3, i := v.getLsbD 2, z := v.getLsbD 1,
                   c := v.getLsbD 0 }
        pc := BitVec.ofNat 16 (256 * hi.toNat + lo.toNat) }

/-- JMP has its two opcode bytes. The absolute form sets PC to its operand. The indirect form reads the low byte at the
pointer and then the high byte at the next address of the same page (the pointer at $xxFF reads its high byte at $xx00)
and sets PC to that word. Nothing else changes but what those reads change. (stated: R1106) -/
def Obligations.JumpResults : Prop :=
  HasRows .jmp [(0x4C, .abs), (0x6C, .ind)] ∧
    (∀ (w : Word) (s : State), exec (.jmpAbs w) s = .next { s with pc := w }) ∧
    ∀ (w : Word) (s t u : State) (lo hi : Byte), memRead w s = (lo, t) →
      memRead (BitVec.ofNat 16 (256 * (w.toNat / 256) + (w.toNat + 1) % 256)) t = (hi, u) →
        exec (.jmpInd w) s = .next { u with pc := BitVec.ofNat 16 (256 * hi.toNat + lo.toNat) }

/-- JSR and RTS have their one opcode byte each. JSR, with PC past its bytes, pushes the high and the low byte of PC - 1
and sets PC to its operand. RTS pulls a low and a high byte and sets PC to the word plus one (modulo 65536). No flag and
nothing else changes. RTS right after JSR restores PC and S. (stated: R1107, R1108) -/
def Obligations.SubroutineResults : Prop :=
  HasRows .jsr [(0x20, .abs)] ∧ HasRows .rts [(0x60, .imp)] ∧
    (∀ (w : Word) (s : State), Memory.wf s.mem = true →
      ∃ t, exec (.jsr w) s = .next t ∧ Pushed s t [((s.pc - 1) >>> 8).setWidth 8, (s.pc - 1).setWidth 8] ∧ t.pc = w ∧
        t.flags = s.flags ∧ exec .rts t = .next { s with mem := t.mem }) ∧
    ∀ s : State, ∃ lo hi, byteAt s (stackSlot (s.sp + 1)) = some lo ∧ byteAt s (stackSlot (s.sp + 2)) = some hi ∧
      exec .rts s = .next { s with sp := s.sp + 2, pc := BitVec.ofNat 16 (256 * hi.toNat + lo.toNat + 1) }

/-- BRK has its one opcode byte. With PC at the byte after it, and whatever I is, it pushes the high byte of PC + 1, its
low byte and the status byte with bits 5 and 4 set, sets I and no other flag, loads PC from $FFFE and $FFFF, and changes
nothing else. (stated: R1110) -/
def Obligations.BrkResult : Prop :=
  HasRows .brk [(0x00, .imp)] ∧
    ∀ s : State, Memory.wf s.mem = true →
      ∃ t, exec .brk s = .next t ∧ EntersHandler s t (s.pc + 1) (statusOf true s.flags) 0xFFFE

/-- After an NMI or IRQ entry, RTI gives the state before the entry but for the pushed bytes and, for the NMI, the cleared
latch. After BRK, RTI gives the state before it but for the pushed bytes, with PC past the padding byte. The flags, I
among them, are those before the entry. (derived from 60_exceptions.md R1611, 60_exceptions.md R1607, 60_exceptions.md
R1610) -/
def Obligations.ReturnResumesTheInterruptedProgram : Prop :=
  ∀ s t : State, Memory.wf s.mem = true → s.fault = none →
    (s.nmiPending = true → step s = .next t → exec .rti t = .next { s with mem := t.mem, nmiPending := false }) ∧
    (s.nmiPending = false → s.irqLine = true → s.flags.i = false → step s = .next t →
      exec .rti t = .next { s with mem := t.mem }) ∧
    (exec .brk s = .next t → exec .rti t = .next { s with mem := t.mem, pc := s.pc + 1 })

/-- Implied and accumulator modes give no address. Zero page and its indexed forms stay in page 0, indexed absolute forms
wrap modulo 65536, the two indirect indexed forms read their pointer in page 0 with its second byte wrapping there, and a
relative target is PC plus the signed offset. None of these changes any state, page crossing or not. (derived from
40_addressing.md R405, 40_addressing.md R407, 40_addressing.md R408, 40_addressing.md R409, 40_addressing.md R410,
40_addressing.md R411, 40_addressing.md R412, 40_addressing.md R414, 40_addressing.md R415, 40_addressing.md R416,
40_addressing.md R419) -/
def Obligations.EffectiveAddresses : Prop :=
  ∀ (s : State) (n : Byte) (w : Word),
    resolve .imp s = (.noAddr, s) ∧ resolve .acc s = (.noAddr, s) ∧
    resolve (.zp n) s = (.addr (BitVec.ofNat 16 n.toNat), s) ∧
    resolve (.zpx n) s = (.addr (BitVec.ofNat 16 ((n.toNat + s.x.toNat) % 256)), s) ∧
    resolve (.zpy n) s = (.addr (BitVec.ofNat 16 ((n.toNat + s.y.toNat) % 256)), s) ∧
    resolve (.abs w) s = (.addr w, s) ∧
    resolve (.abx w) s = (.addr (BitVec.ofNat 16 (w.toNat + s.x.toNat)), s) ∧
    resolve (.aby w) s = (.addr (BitVec.ofNat 16 (w.toNat + s.y.toNat)), s) ∧
    resolve (.rel n) s = (.addr (BitVec.ofInt 16 (s.pc.toNat + n.toInt)), s) ∧
    (∃ lo hi, byteAt s (BitVec.ofNat 16 ((n.toNat + s.x.toNat) % 256)) = some lo ∧
      byteAt s (BitVec.ofNat 16 ((n.toNat + s.x.toNat + 1) % 256)) = some hi ∧
      resolve (.izx n) s = (.addr (BitVec.ofNat 16 (256 * hi.toNat + lo.toNat)), s)) ∧
    ∃ lo hi, byteAt s (BitVec.ofNat 16 n.toNat) = some lo ∧ byteAt s (BitVec.ofNat 16 ((n.toNat + 1) % 256)) = some hi ∧
      resolve (.izy n) s = (.addr (BitVec.ofNat 16 (256 * hi.toNat + lo.toNat + s.y.toNat)), s)

/-- Reading an operand gives A where the mode has no address, the operand byte itself for an immediate, and otherwise what
one bus read at the effective address gives. Storing to it writes A or makes one bus write there. Reading an operand
changes nothing but vblank, w, read_buffer, vram_addr and the draw counter, and nothing at all where the address holds a
byte. That an immediate loads as its byte with no further bus read, where R406 has the handler read it at its address, is
the model's choice of where that one read stands (log 9, DEDUCED), and the draw counter is the model's own (log 6, DESIGN
CHOICE). (derived from 40_addressing.md R406, 40_addressing.md R417, 20_memory.md R204) -/
def Obligations.OperandAccess : Prop :=
  ∀ (o : Operand) (s : State),
    (∀ t, resolve o s = (.noAddr, t) → loadOperand o s = (t.a, t) ∧ ∀ v, storeAt .noAddr v t = { t with a := v }) ∧
    (∀ n, loadOperand (.imm n) s = (n, s)) ∧
    (∀ ea t, resolve o s = (.addr ea, t) →
      loadOperand o s = memRead ea t ∧ (∀ v, storeAt (.addr ea) v t = memWrite ea v t) ∧
      ∀ v, byteAt t ea = some v → loadOperand o s = (v, t)) ∧
    ReadEffect s (loadOperand o s).2 ∧ (o.mode ≠ .ind → (resolve o s).2 = s)

/-- When an instruction answers a next state, N, V, D, I, Z and C are each unchanged unless the instruction is one the
index of flag writers lists for that flag. (derived from 10_state.md R106, 10_state.md R107, 10_state.md R108, 10_state.md
R109, 10_state.md R110, 10_state.md R111, 10_state.md R112, 40_addressing.md R418) -/
def Obligations.FlagsOnlyTheirWritersChange : Prop :=
  ∀ (i : Instr) (s t : State), exec i s = .next t →
    (i.mnemonic ∉ [Mnemonic.lda, .ldx, .ldy, .tax, .tay, .txa, .tya, .tsx, .pla, .and, .ora, .eor, .inc, .dec, .inx, .iny,
        .dex, .dey, .asl, .lsr, .rol, .ror, .cmp, .cpx, .cpy, .adc, .sbc, .bit, .plp, .rti] →
      t.flags.n = s.flags.n ∧ t.flags.z = s.flags.z) ∧
    (i.mnemonic ∉ [Mnemonic.asl, .lsr, .rol, .ror, .cmp, .cpx, .cpy, .adc, .sbc, .plp, .rti, .clc, .sec] →
      t.flags.c = s.flags.c) ∧
    (i.mnemonic ∉ [Mnemonic.adc, .sbc, .bit, .plp, .rti, .clv] → t.flags.v = s.flags.v) ∧
    (i.mnemonic ∉ [Mnemonic.plp, .rti, .cld, .sed] → t.flags.d = s.flags.d) ∧
    (i.mnemonic ∉ [Mnemonic.plp, .rti, .cli, .sei, .brk] → t.flags.i = s.flags.i)

/-- When an instruction answers a next state, A, X, Y, S and PC are each unchanged unless the instruction is one the
register's rule lists as writing it. A shift or rotate writes A in accumulator mode only. PC here is the address after the
instruction, which only control transfers change. (derived from 10_state.md R101, 10_state.md R102, 10_state.md R103,
10_state.md R104, 10_state.md R105, 40_addressing.md R418) -/
def Obligations.RegistersOnlyTheirWritersChange : Prop :=
  ∀ (i : Instr) (s t : State), exec i s = .next t →
    (i.mnemonic ∉ [Mnemonic.ora, .and, .eor, .adc, .sbc, .lda, .txa, .tya, .pla] →
      ¬ (i.mnemonic ∈ [Mnemonic.asl, .lsr, .rol, .ror] ∧ i.operand = .acc) → t.a = s.a) ∧
    (i.mnemonic ∉ [Mnemonic.ldx, .tax, .tsx, .inx, .dex] → t.x = s.x) ∧
    (i.mnemonic ∉ [Mnemonic.ldy, .tay, .iny, .dey] → t.y = s.y) ∧
    (i.mnemonic ∉ [Mnemonic.txs, .pha, .php, .pla, .plp, .jsr, .rts, .rti, .brk] → t.sp = s.sp) ∧
    (i.mnemonic ∉ [Mnemonic.bpl, .bmi, .bvc, .bvs, .bcc, .bcs, .bne, .beq, .jmp, .jsr, .rts, .rti, .brk] → t.pc = s.pc)

/-- When an instruction that does not push, and that does not store to a memory operand, answers a next state, every CPU
address reads as before, and vram, OAM, nmi_pending and the PPU registers but vblank, w, read_buffer and vram_addr (which
a bus read may change) are unchanged. The draw counter, which a read may advance, is the model's own (log 6, DESIGN
CHOICE). (derived from 40_addressing.md R418, 20_memory.md R204, 20_memory.md R205) -/
def Obligations.FormsThatStoreNothingKeepMemory : Prop :=
  ∀ (i : Instr) (s t : State), exec i s = .next t → pushes i.mnemonic = false →
    (storesToOperand i.mnemonic = false ∨ i.operand = .acc) →
      (∀ a : Word, byteAt t a = byteAt s a) ∧ t.mem = s.mem ∧ t.nmiPending = s.nmiPending ∧
      ∃ vb w rb va, t.ppu = { s.ppu with vblank := vb, w := w, readBuffer := rb, vramAddr := va }

/-- When STA, STX, STY, INC, DEC or a shift or rotate of memory answers a next state, and the resolver applied to the
state before gives the address ea, every CPU address that does not select the same cell as ea reads as before. The stored
byte is one byte wide. (derived from 20_memory.md R205, 42_shift.md R604, 46_load_store.md R1003) -/
def Obligations.StoringFormsKeepOtherBytes : Prop :=
  ∀ (i : Instr) (s t u : State) (ea : Word), exec i s = .next t → storesToOperand i.mnemonic = true →
    resolve i.operand s = (.addr ea, u) → ∀ a : Word, ¬ SameByte s a ea → byteAt t a = byteAt s a

/-- When PHA, PHP, JSR or BRK answers a next state, every CPU address that does not select one of the one, two or three
stack slots from $0100 + S downward (wrapping in page 1) reads as before, S is lower by that count, and the PPU and
nmi_pending are unchanged. (derived from 47_stack_jump.md R1100, 47_stack_jump.md R1102, 47_stack_jump.md R1103,
47_stack_jump.md R1107, 47_stack_jump.md R1110, 70_reset_and_hazards.md R1718) -/
def Obligations.PushingFormsKeepOtherBytes : Prop :=
  ∀ (i : Instr) (s t : State), exec i s = .next t → pushes i.mnemonic = true →
    (∀ a : Word, (∀ k, k < pushCount i.mnemonic → ¬ SameByte s a (stackSlot (s.sp - BitVec.ofNat 8 k))) →
      byteAt t a = byteAt s a) ∧
    t.sp = s.sp - BitVec.ofNat 8 (pushCount i.mnemonic) ∧ t.ppu = s.ppu ∧ t.nmiPending = s.nmiPending

/-- A read of $0000-$1FFF gives the RAM cell, flat or folded to 2 KiB by RAM_MIRROR, a read of $2000-$3FFF is that of port
address mod 8, a read of $4014 and of the external window gives a draw, a read from $4020 on gives the stored byte. Every
read but those of $2002, $2007 and their mirrors changes nothing but the model's draw counter, and those two change
vblank, w, read_buffer and vram_addr only. That a draw advances a counter is the model's choice (log 6, DESIGN CHOICE), as
are the form of an external read (log 7, DEDUCED) and the open-bus draw of $4014 (log 15, DEDUCED). (derived from
20_memory.md R204, 20_memory.md R203, 20_memory.md R206, 20_memory.md R207, 20_memory.md R208, 48_ppu_ports.md R1200) -/
def Obligations.BusReads : Prop :=
  ∀ (a : Word) (s : State),
    (a.toNat ≤ 0x1FFF → s.ramMirror = false → memRead a s = (memGet s.mem a.toNat, s)) ∧
    (a.toNat ≤ 0x1FFF → s.ramMirror = true → memRead a s = (memGet s.mem (a &&& 0x07FF).toNat, s)) ∧
    (0x2000 ≤ a.toNat → a.toNat ≤ 0x3FFF → memRead a s = memRead (BitVec.ofNat 16 (0x2000 + a.toNat % 8)) s) ∧
    (0x4000 ≤ a.toNat → a.toNat ≤ 0x401F → ∃ v, memRead a s = (v, { s with draws := s.draws + 1 })) ∧
    (0x4020 ≤ a.toNat → memRead a s = (memGet s.mem a.toNat, s)) ∧
    ReadEffect s (memRead a s).2 ∧
    (¬ (0x2000 ≤ a.toNat ∧ a.toNat ≤ 0x3FFF ∧ (a.toNat % 8 = 2 ∨ a.toNat % 8 = 7)) →
      ∃ n, (memRead a s).2 = { s with draws := n }) ∧
    ∀ v, byteAt s a = some v → memRead a s = (v, s)

/-- After a write to RAM, or to cartridge space with CART_WRITABLE, every address of the same cell reads the byte written,
every other address reads as before, and nothing else changes. A write to cartridge space without CART_WRITABLE, and one
to the external window, changes nothing. A write of $2000-$3FFF is that of port address mod 8, and neither it nor one to
$4014 changes any byte of memory. (stated: R205, R206) -/
def Obligations.BusWrites : Prop :=
  ∀ (a : Word) (v : Byte) (s : State), Memory.wf s.mem = true →
    ((a.toNat ≤ 0x1FFF ∨ 0x4020 ≤ a.toNat ∧ s.cartWritable = true) →
      (∀ b : Word, (SameByte s b a → byteAt (memWrite a v s) b = some v) ∧
        (¬ SameByte s b a → byteAt (memWrite a v s) b = byteAt s b)) ∧
      memWrite a v s = { s with mem := (memWrite a v s).mem }) ∧
    (0x4020 ≤ a.toNat → s.cartWritable = false → memWrite a v s = s) ∧
    (0x4000 ≤ a.toNat → a.toNat ≤ 0x401F → a ≠ 0x4014 → memWrite a v s = s) ∧
    (0x2000 ≤ a.toNat → a.toNat ≤ 0x3FFF →
      memWrite a v s = memWrite (BitVec.ofNat 16 (0x2000 + a.toNat % 8)) v s ∧ (memWrite a v s).mem = s.mem) ∧
    (memWrite 0x4014 v s).mem = s.mem ∧
    (∀ b : Word, a.toNat ≤ 0x1FFF → b.toNat ≤ 0x1FFF →
      (SameByte s b a ↔ if s.ramMirror then b.toNat % 0x800 = a.toNat % 0x800 else b = a)) ∧
    ∀ b : Word, 0x4020 ≤ a.toNat → (SameByte s b a ↔ b = a)

/-- At every address of $2000-$3FFF, by its low three bits: 2 gives the three status bits in bits 7 to 5 and clears vblank
and w, 4 gives the OAM byte at oam_addr and changes nothing, 7 gives the old read buffer, refills it from vram_addr and
advances vram_addr by 1 or 32 modulo $4000, and the five write-only ports give a draw. That a draw advances a counter is
the model's choice (log 6, DESIGN CHOICE), no rule of the spec. (derived from 48_ppu_ports.md R1200, 48_ppu_ports.md
R1203, 48_ppu_ports.md R1206, 48_ppu_ports.md R1210, 48_ppu_ports.md R1211, 48_ppu_ports.md R1212) -/
def Obligations.PpuPortReads : Prop :=
  ∀ (a : Word) (s : State) (v : Byte) (t : State), 0x2000 ≤ a.toNat → a.toNat ≤ 0x3FFF → memRead a s = (v, t) →
    (a.toNat % 8 = 2 →
      v.toNat / 32 = 4 * s.ppu.vblank.toNat + 2 * s.ppu.sprite0Hit.toNat + s.ppu.spriteOverflow.toNat ∧
      t = { s with ppu := { s.ppu with vblank := false, w := false }, draws := s.draws + 1 }) ∧
    (a.toNat % 8 = 4 → v = oamGet s.ppu.oam s.ppu.oamAddr.toNat ∧ t = s) ∧
    (a.toNat % 8 = 7 → v = s.ppu.readBuffer ∧ t = { s with
      ppu := { s.ppu with
        readBuffer := vramRead s.ppu s.ppu.vramAddr.toNat
        vramAddr := BitVec.ofNat 14 (s.ppu.vramAddr.toNat + if s.ppu.ctrl.getLsbD 2 then 32 else 1) } }) ∧
    (a.toNat % 8 ∈ [0, 1, 3, 5, 6] → t = { s with draws := s.draws + 1 })

/-- At every address of $2000-$3FFF, by its low three bits: 0 sets ctrl and requests an NMI when bit 7 turns on during
vblank, 1 sets mask, 2 is ignored, 3 sets oam_addr, 4 stores at oam_addr and increments it, 5 fills scroll_x then
scroll_y, 6 fills the high six then the low eight bits of vram_addr, by the shared toggle, 7 stores through the mirroring
at vram_addr and advances it. Nothing else changes. (stated: R1201, R1202, R1204, R1205, R1207, R1208, R1209, R1213) -/
def Obligations.PpuPortWrites : Prop :=
  ∀ (a : Word) (s : State) (v : Byte), 0x2000 ≤ a.toNat → a.toNat ≤ 0x3FFF →
    (a.toNat % 8 = 0 → memWrite a v s = { s with
      ppu := { s.ppu with ctrl := v }
      nmiPending := s.nmiPending || (!s.ppu.ctrl.getLsbD 7 && v.getLsbD 7 && s.ppu.vblank) }) ∧
    (a.toNat % 8 = 1 → memWrite a v s = { s with ppu := { s.ppu with mask := v } }) ∧
    (a.toNat % 8 = 2 → memWrite a v s = s) ∧
    (a.toNat % 8 = 3 → memWrite a v s = { s with ppu := { s.ppu with oamAddr := v } }) ∧
    (a.toNat % 8 = 4 → memWrite a v s = { s with
      ppu := { s.ppu with oam := oamPut s.ppu.oamAddr.toNat v s.ppu.oam, oamAddr := s.ppu.oamAddr + 1 } }) ∧
    (a.toNat % 8 = 5 → memWrite a v s = { s with
      ppu := if s.ppu.w then { s.ppu with scrollY := v, w := false } else { s.ppu with scrollX := v, w := true } }) ∧
    (a.toNat % 8 = 6 → memWrite a v s = { s with
      ppu := { s.ppu with
        vramAddr := if s.ppu.w then BitVec.ofNat 14 (256 * (s.ppu.vramAddr.toNat / 256) + v.toNat)
          else BitVec.ofNat 14 (256 * (v.toNat % 64) + s.ppu.vramAddr.toNat % 256)
        w := !s.ppu.w } }) ∧
    (a.toNat % 8 = 7 → memWrite a v s = { s with
      ppu := { vramWrite s.ppu s.ppu.vramAddr.toNat v with
        vramAddr := BitVec.ofNat 14 (s.ppu.vramAddr.toNat + if s.ppu.ctrl.getLsbD 2 then 32 else 1) } })

/-- A write of v to $4014 is, for i from 0 to 255 in order, one bus read at 256 v + i whose byte is stored in OAM at
oam_addr + i modulo 256. oam_addr is unchanged at the end. Where the page holds bytes (RAM, or cartridge space from page
$41 on) OAM then holds them and nothing else changes. That each byte is stored before the next is read, which pages $20 to
$3F can show, is the model's reading of R1214 with R18 (log 18, DEDUCED). (derived from 48_ppu_ports.md R1214, 00_scope.md
R18, 20_memory.md R204) -/
def Obligations.OamDmaCopiesAPage : Prop :=
  ∀ (v : Byte) (s : State),
    memWrite 0x4014 v s = (List.range 256).foldl (fun u k =>
      { (memRead (BitVec.ofNat 16 (256 * v.toNat + k)) u).2 with
        ppu := oamWrite (memRead (BitVec.ofNat 16 (256 * v.toNat + k)) u).2.ppu (u.ppu.oamAddr + BitVec.ofNat 8 k)
          (memRead (BitVec.ofNat 16 (256 * v.toNat + k)) u).1 }) s ∧
    (memWrite 0x4014 v s).ppu.oamAddr = s.ppu.oamAddr ∧
    (oamWf s.ppu = true → (v.toNat ≤ 0x1F ∨ 0x41 ≤ v.toNat) →
      memWrite 0x4014 v s = { s with ppu := { s.ppu with oam := (memWrite 0x4014 v s).ppu.oam } } ∧
      ∀ k : Byte, byteAt s (BitVec.ofNat 16 (256 * v.toNat + k.toNat)) =
        some (oamRead (memWrite 0x4014 v s).ppu (s.ppu.oamAddr + k)))

/-- With the toggle clear, after writing a high and a low byte to $2006, the first read of $2007 gives the byte that
read_buffer held before, and the second gives the vram byte at the address set, palette addresses among them. (derived
from 70_reset_and_hazards.md R1711, 48_ppu_ports.md R1208, 48_ppu_ports.md R1210) -/
def Obligations.VramReadsAreDelayedByOne : Prop :=
  ∀ (s t1 t2 : State) (hi lo b1 b2 : Byte), s.ppu.w = false →
    memRead 0x2007 (memWrite 0x2006 lo (memWrite 0x2006 hi s)) = (b1, t1) → memRead 0x2007 t1 = (b2, t2) →
      b1 = s.ppu.readBuffer ∧ b2 = vramRead s.ppu (256 * (hi.toNat % 64) + lo.toNat)

/-- For INC, DEC, ASL, LSR, ROL and ROR in every form whose effective address is in $2000-$3FFF: the port is read once,
the changed byte is written to it once, and nothing else but flags changes. Where the port is $2007 or a mirror of it, the
changed read_buffer is stored at vram_addr plus the increment, read_buffer holds the byte that stood at the old vram_addr,
and vram_addr is advanced by twice the increment. (derived from 70_reset_and_hazards.md R1713, 42_shift.md R604,
48_ppu_ports.md R1200, 48_ppu_ports.md R1211, 45_arith.md R907, 45_arith.md R908) -/
def Obligations.ReadModifyWriteOfTheDataPort : Prop :=
  ∀ (i : Instr) (s u : State) (ea : Word) (v r : Byte), resolve i.operand s = (.addr ea, s) →
    0x2000 ≤ ea.toNat → ea.toNat ≤ 0x3FFF → memRead ea s = (v, u) →
    (i.mnemonic = .inc ∧ r.toNat = (v.toNat + 1) % 256 ∨ i.mnemonic = .dec ∧ r.toNat = (v.toNat + 255) % 256 ∨
      i.mnemonic = .asl ∧ r.toNat = 2 * v.toNat % 256 ∨ i.mnemonic = .lsr ∧ r.toNat = v.toNat / 2 ∨
      i.mnemonic = .rol ∧ r.toNat = (2 * v.toNat + s.flags.c.toNat) % 256 ∨
      i.mnemonic = .ror ∧ r.toNat = v.toNat / 2 + 128 * s.flags.c.toNat) →
      (∃ f, exec i s = .next { memWrite ea r u with flags := f }) ∧
      (ea.toNat % 8 = 7 → vramWf s.ppu = true → ∀ inc : Nat, inc = (if s.ppu.ctrl.getLsbD 2 then 32 else 1) →
        v = s.ppu.readBuffer ∧ ∃ t, exec i s = .next t ∧
          vramRead t.ppu (s.ppu.vramAddr.toNat + inc) = r ∧
          t.ppu.readBuffer = vramRead s.ppu s.ppu.vramAddr.toNat ∧
          t.ppu.vramAddr = BitVec.ofNat 14 (s.ppu.vramAddr.toNat + 2 * inc))

/-- An address is reduced modulo $4000. Pattern addresses are their own cells, $3000-$3EFF repeats $2000-$2EFF, quadrants
0 and 1, 2 and 3 share a nametable under horizontal mirroring and 0 and 2, 1 and 3 under vertical, palette addresses
repeat every 32 bytes with $10, $14, $18, $1C the cells of $00, $04, $08, $0C. A write is read back at every address of
its cell, every other address reads as before, and nothing else changes. (stated: R222, R223, R224) -/
def Obligations.VramMirrors : Prop :=
  (∀ (m : Mirroring) (a : Nat), canon m (a % 0x4000) = canon m a ∧ isVramCell (canon m a) = true) ∧
    (∀ (m : Mirroring) (a : Nat), a ≤ 0x1FFF → canon m a = a) ∧
    (∀ (m : Mirroring) (a : Nat), 0x3000 ≤ a → a ≤ 0x3EFF → canon m a = canon m (a - 0x1000)) ∧
    (∀ q off : Nat, q < 4 → off < 0x400 →
      canon .horizontal (0x2000 + 0x400 * q + off) = 0x2000 + (if q < 2 then 0 else 0x400) + off ∧
      canon .vertical (0x2000 + 0x400 * q + off) = 0x2000 + (if q = 0 ∨ q = 2 then 0 else 0x400) + off) ∧
    (∀ (m : Mirroring) (k p : Nat), k < 8 → p < 32 →
      canon m (0x3F00 + 32 * k + p) = if p ∈ [0x10, 0x14, 0x18, 0x1C] then 0x3F00 + p - 0x10 else 0x3F00 + p) ∧
    ∀ (p : Ppu) (a b : Nat) (v : Byte), vramWf p = true →
      vramRead (vramWrite p a v) b = (if canon p.mirroring b = canon p.mirroring a then v else vramRead p b) ∧
      vramWrite p a v = { p with vram := (vramWrite p a v).vram }

/-- For every tile position, scroll and main screen 0 to 3, and each row r and column c of the tile, the pixel at 8 tx + c
- sx mod 8, 8 ty + r - sy mod 8, where it lies in the frame buffer, is the colour of the palette index built from the
pattern, nametable and attribute bytes at the scrolled place of the 64 by 60 plane, with the backdrop rule. Every other
pixel is unchanged. The colour of a palette index is the triple that SYSTEM_PALETTE gives for the low six bits of the
palette byte at $3F00 plus the index, with alpha $FF. (stated: R1302, R1304, R1305, R1306, R1307) -/
def Obligations.BackgroundTilePixels : Prop :=
  (∀ (p : Ppu) (pi : Nat) (c : Rgb), pi ≤ 31 →
      c = Config.systemPalette (BitVec.ofNat 6 ((vramRead p (0x3F00 + pi)).toNat % 64)) →
      paletteColor p pi = { r := c.r, g := c.g, b := c.b, a := 0xFF }) ∧
    ∀ (p : Ppu) (tx ty sx sy ms : Byte), fbWf p = true → ms.toNat ≤ 3 →
      ∀ wx wy q col row nt tile abyte sh sel : Nat,
        wx = (32 * (ms.toNat % 2) + tx.toNat + sx.toNat / 8) % 64 →
        wy = (30 * (ms.toNat / 2) + ty.toNat + sy.toNat / 8) % 60 →
        q = (if 32 ≤ wx then 1 else 0) + (if 30 ≤ wy then 2 else 0) → col = wx % 32 → row = wy % 30 →
        nt = 0x2000 + 0x400 * q → tile = (vramRead p (nt + 32 * row + col)).toNat →
        abyte = (vramRead p (nt + 0x3C0 + 8 * (row / 4) + col / 4)).toNat →
        sh = (if 2 ≤ row % 4 then 4 else 0) + (if 2 ≤ col % 4 then 2 else 0) → sel = abyte / 2 ^ sh % 4 →
        (∀ r c x y ci pi : Nat, r < 8 → c < 8 →
          (x : Int) = 8 * tx.toNat + c - (sx.toNat % 8 : Nat) → (y : Int) = 8 * ty.toNat + r - (sy.toNat % 8 : Nat) →
          x ≤ 255 → y ≤ 255 →
          ci = (vramRead p ((if p.ctrl.getLsbD 4 then 0x1000 else 0) + 16 * tile + r)).toNat / 2 ^ (7 - c) % 2 +
            2 * ((vramRead p ((if p.ctrl.getLsbD 4 then 0x1000 else 0) + 16 * tile + 8 + r)).toNat / 2 ^ (7 - c) % 2) →
          pi = (if (4 * sel + ci) % 4 = 0 then 0x10 else 4 * sel + ci) →
            fbAt (renderBgTile tx ty sx sy ms p) x y = paletteColor p pi) ∧
        ∀ x y : Nat, x ≤ 255 → y ≤ 255 →
          (¬ ∃ r c : Nat, r < 8 ∧ c < 8 ∧ (x : Int) = 8 * tx.toNat + c - (sx.toNat % 8 : Nat) ∧
            (y : Int) = 8 * ty.toNat + r - (sy.toNat % 8 : Nat)) →
            fbAt (renderBgTile tx ty sx sy ms p) x y = fbAt p x y

/-- For every position, pattern and attribute byte and each row r and column c, the pixel at x + c, y + r, where it lies
in the frame buffer, is unchanged where the colour index of the flipped pattern there is 0, and otherwise the triple that
SYSTEM_PALETTE gives for the low six bits of the palette byte at $3F10 + 4 sel + that index, with alpha $FF, whatever the
frame buffer held. Every other pixel is unchanged. (stated: R1310, R1311, R1312, R1313) -/
def Obligations.SpritePixels : Prop :=
  ∀ (p : Ppu) (x y tile a : Byte), fbWf p = true →
    (∀ (r c sr sc ci : Nat) (col : Rgb), r < 8 → c < 8 → x.toNat + c ≤ 255 → y.toNat + r ≤ 255 →
      sr = (if a.getLsbD 7 then 7 - r else r) → sc = (if a.getLsbD 6 then 7 - c else c) →
      ci = (vramRead p ((if p.ctrl.getLsbD 3 then 0x1000 else 0) + 16 * tile.toNat + sr)).toNat / 2 ^ (7 - sc) % 2 +
        2 * ((vramRead p ((if p.ctrl.getLsbD 3 then 0x1000 else 0) + 16 * tile.toNat + 8 + sr)).toNat / 2 ^ (7 - sc) % 2) →
      col = Config.systemPalette
        (BitVec.ofNat 6 ((vramRead p (0x3F10 + 4 * (a.toNat % 4) + ci)).toNat % 64)) →
        fbAt (renderSprite x y tile a p) (x.toNat + c) (y.toNat + r) =
          if ci = 0 then fbAt p (x.toNat + c) (y.toNat + r) else { r := col.r, g := col.g, b := col.b, a := 0xFF }) ∧
    ∀ x' y' : Nat, x' ≤ 255 → y' ≤ 255 →
      (¬ ∃ r c : Nat, r < 8 ∧ c < 8 ∧ x' = x.toNat + c ∧ y' = y.toNat + r) →
        fbAt (renderSprite x y tile a p) x' y' = fbAt p x' y'

/-- Where no pixel is clipped: for each row r and column c there is one pixel or skip, the same for every frame buffer,
that the call with the flip bit clear writes at column x + c and the call with horizontal flip set writes at column x + 7
- c of the same row, and likewise for rows with vertical flip. This holds with the other flip bit either way. (stated:
R1315) -/
def Obligations.FlippedSpritesAreReflections : Prop :=
  ∀ (p : Ppu) (x y tile a : Byte), x.toNat ≤ 248 → y.toNat ≤ 248 → ∀ r c : Nat, r < 8 → c < 8 →
    (a.getLsbD 6 = false → ∃ o : Option Pixel, ∀ fb, fbWf { p with fb := fb } = true →
      fbAt (renderSprite x y tile a { p with fb := fb }) (x.toNat + c) (y.toNat + r) =
        o.getD (fbAt { p with fb := fb } (x.toNat + c) (y.toNat + r)) ∧
      fbAt (renderSprite x y tile (a ||| 0x40) { p with fb := fb }) (x.toNat + 7 - c) (y.toNat + r) =
        o.getD (fbAt { p with fb := fb } (x.toNat + 7 - c) (y.toNat + r))) ∧
    (a.getLsbD 7 = false → ∃ o : Option Pixel, ∀ fb, fbWf { p with fb := fb } = true →
      fbAt (renderSprite x y tile a { p with fb := fb }) (x.toNat + c) (y.toNat + r) =
        o.getD (fbAt { p with fb := fb } (x.toNat + c) (y.toNat + r)) ∧
      fbAt (renderSprite x y tile (a ||| 0x80) { p with fb := fb }) (x.toNat + c) (y.toNat + 7 - r) =
        o.getD (fbAt { p with fb := fb } (x.toNat + c) (y.toNat + 7 - r)))

/-- Any action of the console but a call of the background or the sprite compositor leaves the frame buffer as it is, and
any call of either compositor leaves everything but the frame buffer as it is. (stated: R1316) -/
def Obligations.OnlyCompositorsWriteTheFrameBuffer : Prop :=
  ∀ (act' : Action) (s : State),
    ((∀ tx ty sx sy ms, act' ≠ .driver (.renderBgTile tx ty sx sy ms)) →
      (∀ x y tile a, act' ≠ .driver (.renderSprite x y tile a)) → (act act' s).ppu.fb = s.ppu.fb) ∧
    (∀ tx ty sx sy ms, ∃ fb,
      driverStep (.renderBgTile tx ty sx sy ms) s = { s with ppu := { s.ppu with fb := fb } }) ∧
    ∀ x y tile a, ∃ fb, driverStep (.renderSprite x y tile a) s = { s with ppu := { s.ppu with fb := fb } }

/-- BeginVBlank sets vblank and requests an NMI where ctrl bit 7 is set, EndVBlank clears the three status bits,
SetSprite0Hit, SetSpriteOverflow and SetScanline set their field, RaiseNMI sets nmi_pending and SetIRQ sets the IRQ line.
Nothing else changes. (stated: R1215, R1216) -/
def Obligations.DriverHookEffects : Prop :=
  ∀ (s : State) (b : Bool) (n : Nat),
    driverStep .beginVBlank s = { s with
      ppu := { s.ppu with vblank := true }, nmiPending := s.nmiPending || s.ppu.ctrl.getLsbD 7 } ∧
    driverStep .endVBlank s = { s with
      ppu := { s.ppu with vblank := false, sprite0Hit := false, spriteOverflow := false } } ∧
    driverStep (.setSprite0Hit b) s = { s with ppu := { s.ppu with sprite0Hit := b } } ∧
    driverStep (.setSpriteOverflow b) s = { s with ppu := { s.ppu with spriteOverflow := b } } ∧
    driverStep (.setScanline n) s = { s with ppu := { s.ppu with scanline := n } } ∧
    driverStep .raiseNmi s = { s with nmiPending := true } ∧
    driverStep (.setIrq b) s = { s with irqLine := b }

/-- For every cartridge and parameters: after power-on S is $FD, I is set, there is no fault, nmi_pending and the IRQ line
are clear, PC is the word at $FFFC and $FFFD, ctrl, mask, the status bits, oam_addr, vram_addr, both scroll values, w and
scanline are 0, and the mirroring mode is the cartridge's. A, X, Y, the other flags, read_buffer, OAM and the frame buffer
are those of the created state: the sequence does not change them. Memory and vram hold what the cartridge put there.
Rules of the spec give the values of the first sentence. The rest is the model's choice of how a created state is held:
one constant for each drawn value at every power-on (logs 1 and 4), memory as the cartridge's cells alone (logs 3 and 13),
the parameters as fields (log 5), all DESIGN CHOICE. (derived from 70_reset_and_hazards.md R1700, 70_reset_and_hazards.md
R1703, 10_state.md R150, 48_ppu_ports.md R1217, 00_scope.md R11) -/
def Obligations.PowerOnValues : Prop :=
  ∀ (rm cw : Bool) (c : Cartridge) (s : State), s = powerOn rm cw c →
    s.sp = 0xFD ∧ s.flags.i = true ∧ s.fault = none ∧ s.nmiPending = false ∧ s.irqLine = false ∧
    (∃ lo hi : Byte, byteAt s 0xFFFC = some lo ∧ byteAt s 0xFFFD = some hi ∧
      s.pc = BitVec.ofNat 16 (256 * hi.toNat + lo.toNat)) ∧
    s.ppu.ctrl = 0 ∧ s.ppu.mask = 0 ∧ s.ppu.vblank = false ∧ s.ppu.sprite0Hit = false ∧ s.ppu.spriteOverflow = false ∧
    s.ppu.oamAddr = 0 ∧ s.ppu.vramAddr = 0 ∧ s.ppu.scrollX = 0 ∧ s.ppu.scrollY = 0 ∧ s.ppu.w = false ∧
    s.ppu.scanline = 0 ∧ s.ppu.mirroring = c.mirroring ∧ s.ramMirror = rm ∧ s.cartWritable = cw ∧
    s.a = State.reset.a ∧ s.x = State.reset.x ∧ s.y = State.reset.y ∧
    s.flags = { State.reset.flags with i := true } ∧ s.ppu.readBuffer = State.reset.ppu.readBuffer ∧
    s.ppu.oam = State.reset.ppu.oam ∧ s.ppu.fb = State.reset.ppu.fb ∧ s.mem = loadPrg c.prg ∧ s.ppu.vram = loadChr c.chr

/-- For a cartridge that lists each address once: after power-on each byte it lists from $4020 on is read at its address,
each byte it lists for the pattern region is read there through the PPU address space, and no cell of RAM is stored to,
whatever the cartridge lists. That a cell of RAM then reads as the one function initRam at every power-on, and that a
cartridge byte outside its regions is dropped, are the model's choices (logs 2 and 13, DESIGN CHOICE). (derived from
48_ppu_ports.md R1217, 70_reset_and_hazards.md R1700) -/
def Obligations.CartridgePopulatesMemory : Prop :=
  ∀ (rm cw : Bool) (c : Cartridge) (s : State), s = powerOn rm cw c →
    ((c.prg.map Prod.fst).Nodup → ∀ a v, (a, v) ∈ c.prg → 0x4020 ≤ a.toNat → byteAt s a = some v) ∧
    ((c.chr.map Prod.fst).Nodup → ∀ a v, (a, v) ∈ c.chr → a.toNat ≤ 0x1FFF → vramRead s.ppu a.toNat = v) ∧
    ∀ k : Nat, k ≤ 0x1FFF → memGet s.mem k = Config.initRam k

/-- When an action leaves nmi_pending set where it was clear, the action is RaiseNMI, or BeginVBlank with ctrl bit 7 set,
or a CPU step from a state with vblank set and ctrl bit 7 clear that leaves ctrl bit 7 set. When an action leaves it clear
where it was set, the action is a CPU step with no fault, and that step is the NMI entry, whatever I is. (stated: R1604)
-/
def Obligations.NmiRequestsHaveThreeSources : Prop :=
  ∀ (act' : Action) (s : State),
    (s.nmiPending = false → (act act' s).nmiPending = true →
      act' = .driver .raiseNmi ∨ (act' = .driver .beginVBlank ∧ s.ppu.ctrl.getLsbD 7 = true) ∨
      (act' = .cpu ∧ s.ppu.vblank = true ∧ s.ppu.ctrl.getLsbD 7 = false ∧ (act act' s).ppu.ctrl.getLsbD 7 = true)) ∧
    (s.nmiPending = true → (act act' s).nmiPending = false →
      act' = .cpu ∧ s.fault = none ∧ step s = .next (takeNmi s)) ∧
    (s.ppu.ctrl.getLsbD 7 = true → (act (.driver .beginVBlank) s).nmiPending = true) ∧
    (act (.driver .raiseNmi) s).nmiPending = true ∧
    (∀ v : Byte, s.ppu.vblank = true → s.ppu.ctrl.getLsbD 7 = false → v.getLsbD 7 = true →
      (memWrite 0x2000 v s).nmiPending = true)

/-- Changing D before an instruction other than CLD, SED, PLP, RTI, PHP and BRK changes nothing after it but D in the same
way. Before CLD, SED, PLP and RTI, which write D, it changes nothing at all. PHP and BRK push it. No other instruction
writes D. The two runs compared take the same draws, which is the model's choice (log 6, DESIGN CHOICE): the spec's draws
are independent. (derived from 10_state.md R109, 45_arith.md R913, 00_scope.md R19) -/
def Obligations.DecimalFlagIsNotRead : Prop :=
  ∀ (i : Instr) (s t : State) (d : Bool), exec i s = .next t →
    (i.mnemonic ∉ [Mnemonic.cld, .sed, .plp, .rti, .php, .brk] → exec i (withD d s) = .next (withD d t)) ∧
    (i.mnemonic ∈ [Mnemonic.cld, .sed, .plp, .rti] → exec i (withD d s) = .next t) ∧
    (i.mnemonic ∉ [Mnemonic.cld, .sed, .plp, .rti] → t.flags.d = s.flags.d)

/-- With no fault, no NMI pending and the IRQ line asserted: after CLI, and after a PLP or RTI that pulls a byte with bit
2 clear, the next step takes the IRQ. After SEI, and after a PLP or RTI that pulls a byte with bit 2 set, the next step
fetches. There is no window of one instruction. (stated: R1715) -/
def Obligations.InterruptMaskChangesAreSeenAtOnce : Prop :=
  ∀ (s t : State) (i : Instr) (p : Byte), s.fault = none → s.nmiPending = false → s.irqLine = true →
    byteAt s (stackSlot (s.sp + 1)) = some p → exec i s = .next t →
      ((i = .cli ∨ (i = .plp ∨ i = .rti) ∧ p.getLsbD 2 = false) → step t = .next (takeIrq t)) ∧
      ((i = .sei ∨ (i = .plp ∨ i = .rti) ∧ p.getLsbD 2 = true) → Fetches t)

/-- In State.reset the CPU memory, vram, OAM and the frame buffer are canonical and list only cells that exist. (derived
from 10_state.md R150, 70_reset_and_hazards.md R1700) -/
def Obligations.InvAtReset : Prop :=
  CoreInv State.reset

/-- From every state in which the CPU memory, vram, OAM and the frame buffer are canonical and list only cells that exist,
a step that answers a next state leaves them so, and so does the state a faulting step leaves. (derived from 20_memory.md
R203, 20_memory.md R206, 20_memory.md R222, 10_state.md R130, 10_state.md R131) -/
def Obligations.StepKeepsInv : Prop :=
  ∀ s : State, CoreInv s → (∀ t, step s = .next t → CoreInv t) ∧ CoreInv (leaves s)

/-- From every state with the invariant, any sequence of CPU steps, hooks, interrupt inputs and render calls, in any order
the driver chooses, leaves a state with the invariant. Power-on with any cartridge and parameters gives a state with it.
(derived from 20_memory.md R240, 20_memory.md R244, 60_exceptions.md R1640, 70_reset_and_hazards.md R1700, 48_ppu_ports.md
R1217) -/
def Obligations.ScheduleKeepsInv : Prop :=
  (∀ (rm cw : Bool) (c : Cartridge), CoreInv (powerOn rm cw c)) ∧
    ∀ (schedule : List Action) (s : State), CoreInv s → CoreInv (runSchedule schedule s)

end Statements
end

