-- ==== Sys2Proof/Laws/Memory.lean ====
section
/-! SUPPORT. The laws of storage: read after write, a write leaves every other key alone, every operation keeps the canonical
form, and canonical stores that agree at every key are equal data. -/

namespace Sys2Proof.Laws.Memory

open Sys2Proof.Machine

variable {α : Type} [DecidableEq α] {u : Nat → Option α} {f : Nat → α} {k k' b : Nat} {v : α} {m m' : List (Nat × α)}

omit [DecidableEq α] in
theorem risingFrom_mono (h : b ≤ k) (hm : risingFrom k m = true) : risingFrom b m = true := by
  cases m with
  | nil => rfl
  | cons c m =>
    simp only [risingFrom, Bool.and_eq_true, decide_eq_true_eq] at hm ⊢
    exact ⟨by omega, hm.2⟩

omit [DecidableEq α] in
theorem getCell_below (hm : risingFrom b m = true) (h : k < b) : getCell k m = none := by
  induction m generalizing b with
  | nil => rfl
  | cons c m ih =>
    simp only [risingFrom, Bool.and_eq_true, decide_eq_true_eq] at hm
    rw [getCell, if_neg (by omega)]
    exact ih hm.2 (by omega)

theorem getCell_put_other (h : k' ≠ k) : getCell k' (putCell u k v m) = getCell k' m := by
  induction m with
  | nil =>
    simp only [putCell]
    split <;> simp [getCell, Ne.symm h]
  | cons c m ih =>
    obtain ⟨a, w⟩ := c
    simp only [putCell]
    split
    · split <;> simp [getCell, Ne.symm h]
    · split
      · rename_i hka
        subst hka
        split <;> simp [getCell, Ne.symm h]
      · simp [getCell, ih]

theorem readCell_put_other (h : k' ≠ k) : readCell u f (putCell u k v m) k' = readCell u f m k' := by
  simp [readCell, getCell_put_other h]

theorem getCell_put_self (hm : risingFrom b m = true) :
    getCell k (putCell u k v m) = if u k = some v then none else some v := by
  induction m generalizing b with
  | nil =>
    simp only [putCell]
    split <;> simp [getCell]
  | cons c m ih =>
    obtain ⟨a, w⟩ := c
    simp only [risingFrom, Bool.and_eq_true, decide_eq_true_eq] at hm
    simp only [putCell]
    split
    · split
      · rw [getCell, if_neg (by omega), getCell_below hm.2 (by omega)]
      · simp [getCell]
    · split
      · rename_i hka
        subst hka
        split
        · exact getCell_below hm.2 (by omega)
        · simp [getCell]
      · rw [getCell, if_neg (by omega), ih hm.2]

theorem readCell_put_self (hm : risingFrom b m = true) : readCell u f (putCell u k v m) k = v := by
  rw [readCell, getCell_put_self hm]
  split <;> simp_all

theorem risingFrom_put (hm : risingFrom b m = true) (h : b ≤ k) : risingFrom b (putCell u k v m) = true := by
  induction m generalizing b with
  | nil =>
    simp only [putCell]
    split <;> simp [risingFrom, h]
  | cons c m ih =>
    obtain ⟨a, w⟩ := c
    have hm' := hm
    simp only [risingFrom, Bool.and_eq_true, decide_eq_true_eq] at hm
    simp only [putCell]
    split
    · split
      · exact hm'
      · simp only [risingFrom, Bool.and_eq_true, decide_eq_true_eq]
        exact ⟨h, by omega, hm.2⟩
    · split
      · split
        · exact risingFrom_mono (by omega) hm.2
        · simp only [risingFrom, Bool.and_eq_true, decide_eq_true_eq]
          rename_i hka _
          subst hka
          exact ⟨h, hm.2⟩
      · simp only [risingFrom, Bool.and_eq_true, decide_eq_true_eq]
        exact ⟨hm.1, ih hm.2 (by omega)⟩

theorem mem_put {c : Nat × α} (h : c ∈ putCell u k v m) : c ∈ m ∨ (c = (k, v) ∧ u k ≠ some v) := by
  induction m with
  | nil =>
    simp only [putCell] at h
    split at h <;> simp_all
  | cons d m ih =>
    obtain ⟨a, w⟩ := d
    simp only [putCell] at h
    split at h
    · split at h <;> simp_all
      tauto
    · split at h
      · split at h <;> simp_all
        tauto
      · simp only [List.mem_cons] at h ⊢
        rcases h with h | h
        · exact .inl (.inl h)
        · rcases ih h with h | h
          · exact .inl (.inr h)
          · exact .inr h

theorem all_put {p : Nat → Bool} (hm : (m.all fun c => p c.1) = true) (hk : p k = true) :
    ((putCell u k v m).all fun c => p c.1) = true := by
  rw [List.all_eq_true] at hm ⊢
  intro c hc
  rcases mem_put hc with h | ⟨rfl, -⟩
  · exact hm c h
  · exact hk

theorem canonical_put (hm : canonicalCells u m = true) : canonicalCells u (putCell u k v m) = true := by
  simp only [canonicalCells, Bool.and_eq_true, List.all_eq_true] at hm ⊢
  refine ⟨risingFrom_put hm.1 (Nat.zero_le k), fun c hc => ?_⟩
  rcases mem_put hc with h | ⟨rfl, h⟩
  · exact hm.2 c h
  · simpa using h

theorem canonical_rising (hm : canonicalCells u m = true) : risingFrom 0 m = true := by
  simp only [canonicalCells, Bool.and_eq_true] at hm
  exact hm.1

omit [DecidableEq α] in
/-- Two stores with rising keys that list the same value for every key are the same list. -/
theorem rising_ext (hm : risingFrom b m = true) (hm' : risingFrom b m' = true)
    (h : ∀ k, getCell k m = getCell k m') : m = m' := by
  induction m generalizing b m' with
  | nil =>
    cases m' with
    | nil => rfl
    | cons c m' => simpa [getCell] using h c.1
  | cons c m ih =>
    obtain ⟨a, w⟩ := c
    cases m' with
    | nil => simpa [getCell] using h a
    | cons c' m' =>
      obtain ⟨a', w'⟩ := c'
      simp only [risingFrom, Bool.and_eq_true, decide_eq_true_eq] at hm hm'
      have haa : a = a' := by
        rcases Nat.lt_trichotomy a a' with hlt | heq | hgt
        · have := h a
          rw [getCell, if_pos rfl, getCell, if_neg (by omega), getCell_below hm'.2 (by omega)] at this
          cases this
        · exact heq
        · have := h a'
          rw [getCell, if_neg (by omega), getCell, if_pos rfl, getCell_below hm.2 (by omega)] at this
          cases this
      subst haa
      have hw : w = w' := by simpa [getCell] using h a
      subst hw
      rw [ih hm.2 hm'.2]
      intro k
      by_cases hk : a = k
      · subst hk
        rw [getCell_below hm.2 (by omega), getCell_below hm'.2 (by omega)]
      · simpa [getCell, hk] using h k

theorem memGet_memPut_self {m : Memory} {v : Byte} (hm : Memory.wf m = true) : memGet (memPut k v m) k = v :=
  readCell_put_self (canonical_rising hm)

theorem memGet_memPut_other {m : Memory} {v : Byte} (h : k' ≠ k) : memGet (memPut k v m) k' = memGet m k' :=
  readCell_put_other h

/-- Storing in the CPU memory keeps its canonical form. -/
theorem wf_memPut {m : Memory} {v : Byte} (hm : Memory.wf m = true) : Memory.wf (memPut k v m) = true :=
  canonical_put hm

theorem vramGet_vramPut_other {m : List Host.Cell} {v : Byte} (h : k' ≠ k) :
    vramGet (vramPut k v m) k' = vramGet m k' :=
  readCell_put_other h

theorem vramGet_vramPut_self {m : List Host.Cell} {v : Byte} (hm : canonicalCells vramUnlisted m = true) :
    vramGet (vramPut k v m) k = v :=
  readCell_put_self (canonical_rising hm)

theorem oamGet_oamPut_other {m : List Host.Cell} {v : Byte} (h : k' ≠ k) : oamGet (oamPut k v m) k' = oamGet m k' :=
  readCell_put_other h

theorem oamGet_oamPut_self {m : List Host.Cell} {v : Byte} (hm : canonicalCells noUnlisted m = true) :
    oamGet (oamPut k v m) k = v :=
  readCell_put_self (canonical_rising hm)

theorem fbGet_fbPut_other {m : List (Nat × Pixel)} {px : Pixel} (h : k' ≠ k) : fbGet (fbPut k px m) k' = fbGet m k' :=
  readCell_put_other h

theorem fbGet_fbPut_self {m : List (Nat × Pixel)} {px : Pixel} (hm : canonicalCells noUnlisted m = true) :
    fbGet (fbPut k px m) k = px :=
  readCell_put_self (canonical_rising hm)

end Sys2Proof.Laws.Memory
end

