-- ==== Sys2Proof/Laws/State.lean ====
section
/-! SUPPORT. One lemma per field per update of State, each by rfl, so that no proof unfolds an update; two updates of one
field; and an update by the value already there. -/

namespace Sys2Proof.Machine.State

@[simp] theorem a_setA (s : State) (v : Byte) : (s.setA v).a = v := rfl
@[simp] theorem x_setA (s : State) (v : Byte) : (s.setA v).x = s.x := rfl
@[simp] theorem y_setA (s : State) (v : Byte) : (s.setA v).y = s.y := rfl
@[simp] theorem sp_setA (s : State) (v : Byte) : (s.setA v).sp = s.sp := rfl
@[simp] theorem pc_setA (s : State) (v : Byte) : (s.setA v).pc = s.pc := rfl
@[simp] theorem flags_setA (s : State) (v : Byte) : (s.setA v).flags = s.flags := rfl
@[simp] theorem fault_setA (s : State) (v : Byte) : (s.setA v).fault = s.fault := rfl
@[simp] theorem nmiPending_setA (s : State) (v : Byte) : (s.setA v).nmiPending = s.nmiPending := rfl
@[simp] theorem irqLine_setA (s : State) (v : Byte) : (s.setA v).irqLine = s.irqLine := rfl
@[simp] theorem mem_setA (s : State) (v : Byte) : (s.setA v).mem = s.mem := rfl
@[simp] theorem ppu_setA (s : State) (v : Byte) : (s.setA v).ppu = s.ppu := rfl
@[simp] theorem ramMirror_setA (s : State) (v : Byte) : (s.setA v).ramMirror = s.ramMirror := rfl
@[simp] theorem cartWritable_setA (s : State) (v : Byte) : (s.setA v).cartWritable = s.cartWritable := rfl
@[simp] theorem draws_setA (s : State) (v : Byte) : (s.setA v).draws = s.draws := rfl
@[simp] theorem setA_setA (s : State) (v v' : Byte) : (s.setA v).setA v' = s.setA v' := rfl
@[simp] theorem setA_self (s : State) : s.setA s.a = s := rfl

@[simp] theorem a_setX (s : State) (v : Byte) : (s.setX v).a = s.a := rfl
@[simp] theorem x_setX (s : State) (v : Byte) : (s.setX v).x = v := rfl
@[simp] theorem y_setX (s : State) (v : Byte) : (s.setX v).y = s.y := rfl
@[simp] theorem sp_setX (s : State) (v : Byte) : (s.setX v).sp = s.sp := rfl
@[simp] theorem pc_setX (s : State) (v : Byte) : (s.setX v).pc = s.pc := rfl
@[simp] theorem flags_setX (s : State) (v : Byte) : (s.setX v).flags = s.flags := rfl
@[simp] theorem fault_setX (s : State) (v : Byte) : (s.setX v).fault = s.fault := rfl
@[simp] theorem nmiPending_setX (s : State) (v : Byte) : (s.setX v).nmiPending = s.nmiPending := rfl
@[simp] theorem irqLine_setX (s : State) (v : Byte) : (s.setX v).irqLine = s.irqLine := rfl
@[simp] theorem mem_setX (s : State) (v : Byte) : (s.setX v).mem = s.mem := rfl
@[simp] theorem ppu_setX (s : State) (v : Byte) : (s.setX v).ppu = s.ppu := rfl
@[simp] theorem ramMirror_setX (s : State) (v : Byte) : (s.setX v).ramMirror = s.ramMirror := rfl
@[simp] theorem cartWritable_setX (s : State) (v : Byte) : (s.setX v).cartWritable = s.cartWritable := rfl
@[simp] theorem draws_setX (s : State) (v : Byte) : (s.setX v).draws = s.draws := rfl
@[simp] theorem setX_setX (s : State) (v v' : Byte) : (s.setX v).setX v' = s.setX v' := rfl
@[simp] theorem setX_self (s : State) : s.setX s.x = s := rfl

@[simp] theorem a_setY (s : State) (v : Byte) : (s.setY v).a = s.a := rfl
@[simp] theorem x_setY (s : State) (v : Byte) : (s.setY v).x = s.x := rfl
@[simp] theorem y_setY (s : State) (v : Byte) : (s.setY v).y = v := rfl
@[simp] theorem sp_setY (s : State) (v : Byte) : (s.setY v).sp = s.sp := rfl
@[simp] theorem pc_setY (s : State) (v : Byte) : (s.setY v).pc = s.pc := rfl
@[simp] theorem flags_setY (s : State) (v : Byte) : (s.setY v).flags = s.flags := rfl
@[simp] theorem fault_setY (s : State) (v : Byte) : (s.setY v).fault = s.fault := rfl
@[simp] theorem nmiPending_setY (s : State) (v : Byte) : (s.setY v).nmiPending = s.nmiPending := rfl
@[simp] theorem irqLine_setY (s : State) (v : Byte) : (s.setY v).irqLine = s.irqLine := rfl
@[simp] theorem mem_setY (s : State) (v : Byte) : (s.setY v).mem = s.mem := rfl
@[simp] theorem ppu_setY (s : State) (v : Byte) : (s.setY v).ppu = s.ppu := rfl
@[simp] theorem ramMirror_setY (s : State) (v : Byte) : (s.setY v).ramMirror = s.ramMirror := rfl
@[simp] theorem cartWritable_setY (s : State) (v : Byte) : (s.setY v).cartWritable = s.cartWritable := rfl
@[simp] theorem draws_setY (s : State) (v : Byte) : (s.setY v).draws = s.draws := rfl
@[simp] theorem setY_setY (s : State) (v v' : Byte) : (s.setY v).setY v' = s.setY v' := rfl
@[simp] theorem setY_self (s : State) : s.setY s.y = s := rfl

@[simp] theorem a_setSp (s : State) (v : Byte) : (s.setSp v).a = s.a := rfl
@[simp] theorem x_setSp (s : State) (v : Byte) : (s.setSp v).x = s.x := rfl
@[simp] theorem y_setSp (s : State) (v : Byte) : (s.setSp v).y = s.y := rfl
@[simp] theorem sp_setSp (s : State) (v : Byte) : (s.setSp v).sp = v := rfl
@[simp] theorem pc_setSp (s : State) (v : Byte) : (s.setSp v).pc = s.pc := rfl
@[simp] theorem flags_setSp (s : State) (v : Byte) : (s.setSp v).flags = s.flags := rfl
@[simp] theorem fault_setSp (s : State) (v : Byte) : (s.setSp v).fault = s.fault := rfl
@[simp] theorem nmiPending_setSp (s : State) (v : Byte) : (s.setSp v).nmiPending = s.nmiPending := rfl
@[simp] theorem irqLine_setSp (s : State) (v : Byte) : (s.setSp v).irqLine = s.irqLine := rfl
@[simp] theorem mem_setSp (s : State) (v : Byte) : (s.setSp v).mem = s.mem := rfl
@[simp] theorem ppu_setSp (s : State) (v : Byte) : (s.setSp v).ppu = s.ppu := rfl
@[simp] theorem ramMirror_setSp (s : State) (v : Byte) : (s.setSp v).ramMirror = s.ramMirror := rfl
@[simp] theorem cartWritable_setSp (s : State) (v : Byte) : (s.setSp v).cartWritable = s.cartWritable := rfl
@[simp] theorem draws_setSp (s : State) (v : Byte) : (s.setSp v).draws = s.draws := rfl
@[simp] theorem setSp_setSp (s : State) (v v' : Byte) : (s.setSp v).setSp v' = s.setSp v' := rfl
@[simp] theorem setSp_self (s : State) : s.setSp s.sp = s := rfl

@[simp] theorem a_setPc (s : State) (v : Word) : (s.setPc v).a = s.a := rfl
@[simp] theorem x_setPc (s : State) (v : Word) : (s.setPc v).x = s.x := rfl
@[simp] theorem y_setPc (s : State) (v : Word) : (s.setPc v).y = s.y := rfl
@[simp] theorem sp_setPc (s : State) (v : Word) : (s.setPc v).sp = s.sp := rfl
@[simp] theorem pc_setPc (s : State) (v : Word) : (s.setPc v).pc = v := rfl
@[simp] theorem flags_setPc (s : State) (v : Word) : (s.setPc v).flags = s.flags := rfl
@[simp] theorem fault_setPc (s : State) (v : Word) : (s.setPc v).fault = s.fault := rfl
@[simp] theorem nmiPending_setPc (s : State) (v : Word) : (s.setPc v).nmiPending = s.nmiPending := rfl
@[simp] theorem irqLine_setPc (s : State) (v : Word) : (s.setPc v).irqLine = s.irqLine := rfl
@[simp] theorem mem_setPc (s : State) (v : Word) : (s.setPc v).mem = s.mem := rfl
@[simp] theorem ppu_setPc (s : State) (v : Word) : (s.setPc v).ppu = s.ppu := rfl
@[simp] theorem ramMirror_setPc (s : State) (v : Word) : (s.setPc v).ramMirror = s.ramMirror := rfl
@[simp] theorem cartWritable_setPc (s : State) (v : Word) : (s.setPc v).cartWritable = s.cartWritable := rfl
@[simp] theorem draws_setPc (s : State) (v : Word) : (s.setPc v).draws = s.draws := rfl
@[simp] theorem setPc_setPc (s : State) (v v' : Word) : (s.setPc v).setPc v' = s.setPc v' := rfl
@[simp] theorem setPc_self (s : State) : s.setPc s.pc = s := rfl

@[simp] theorem a_setFlags (s : State) (v : Flags) : (s.setFlags v).a = s.a := rfl
@[simp] theorem x_setFlags (s : State) (v : Flags) : (s.setFlags v).x = s.x := rfl
@[simp] theorem y_setFlags (s : State) (v : Flags) : (s.setFlags v).y = s.y := rfl
@[simp] theorem sp_setFlags (s : State) (v : Flags) : (s.setFlags v).sp = s.sp := rfl
@[simp] theorem pc_setFlags (s : State) (v : Flags) : (s.setFlags v).pc = s.pc := rfl
@[simp] theorem flags_setFlags (s : State) (v : Flags) : (s.setFlags v).flags = v := rfl
@[simp] theorem fault_setFlags (s : State) (v : Flags) : (s.setFlags v).fault = s.fault := rfl
@[simp] theorem nmiPending_setFlags (s : State) (v : Flags) : (s.setFlags v).nmiPending = s.nmiPending := rfl
@[simp] theorem irqLine_setFlags (s : State) (v : Flags) : (s.setFlags v).irqLine = s.irqLine := rfl
@[simp] theorem mem_setFlags (s : State) (v : Flags) : (s.setFlags v).mem = s.mem := rfl
@[simp] theorem ppu_setFlags (s : State) (v : Flags) : (s.setFlags v).ppu = s.ppu := rfl
@[simp] theorem ramMirror_setFlags (s : State) (v : Flags) : (s.setFlags v).ramMirror = s.ramMirror := rfl
@[simp] theorem cartWritable_setFlags (s : State) (v : Flags) : (s.setFlags v).cartWritable = s.cartWritable := rfl
@[simp] theorem draws_setFlags (s : State) (v : Flags) : (s.setFlags v).draws = s.draws := rfl
@[simp] theorem setFlags_setFlags (s : State) (v v' : Flags) : (s.setFlags v).setFlags v' = s.setFlags v' := rfl
@[simp] theorem setFlags_self (s : State) : s.setFlags s.flags = s := rfl

@[simp] theorem a_setFault (s : State) (v : Option Fault) : (s.setFault v).a = s.a := rfl
@[simp] theorem x_setFault (s : State) (v : Option Fault) : (s.setFault v).x = s.x := rfl
@[simp] theorem y_setFault (s : State) (v : Option Fault) : (s.setFault v).y = s.y := rfl
@[simp] theorem sp_setFault (s : State) (v : Option Fault) : (s.setFault v).sp = s.sp := rfl
@[simp] theorem pc_setFault (s : State) (v : Option Fault) : (s.setFault v).pc = s.pc := rfl
@[simp] theorem flags_setFault (s : State) (v : Option Fault) : (s.setFault v).flags = s.flags := rfl
@[simp] theorem fault_setFault (s : State) (v : Option Fault) : (s.setFault v).fault = v := rfl
@[simp] theorem nmiPending_setFault (s : State) (v : Option Fault) : (s.setFault v).nmiPending = s.nmiPending := rfl
@[simp] theorem irqLine_setFault (s : State) (v : Option Fault) : (s.setFault v).irqLine = s.irqLine := rfl
@[simp] theorem mem_setFault (s : State) (v : Option Fault) : (s.setFault v).mem = s.mem := rfl
@[simp] theorem ppu_setFault (s : State) (v : Option Fault) : (s.setFault v).ppu = s.ppu := rfl
@[simp] theorem ramMirror_setFault (s : State) (v : Option Fault) : (s.setFault v).ramMirror = s.ramMirror := rfl
@[simp] theorem cartWritable_setFault (s : State) (v : Option Fault) : (s.setFault v).cartWritable = s.cartWritable := rfl
@[simp] theorem draws_setFault (s : State) (v : Option Fault) : (s.setFault v).draws = s.draws := rfl
@[simp] theorem setFault_setFault (s : State) (v v' : Option Fault) : (s.setFault v).setFault v' = s.setFault v' := rfl
@[simp] theorem setFault_self (s : State) : s.setFault s.fault = s := rfl

@[simp] theorem a_setNmi (s : State) (v : Bool) : (s.setNmi v).a = s.a := rfl
@[simp] theorem x_setNmi (s : State) (v : Bool) : (s.setNmi v).x = s.x := rfl
@[simp] theorem y_setNmi (s : State) (v : Bool) : (s.setNmi v).y = s.y := rfl
@[simp] theorem sp_setNmi (s : State) (v : Bool) : (s.setNmi v).sp = s.sp := rfl
@[simp] theorem pc_setNmi (s : State) (v : Bool) : (s.setNmi v).pc = s.pc := rfl
@[simp] theorem flags_setNmi (s : State) (v : Bool) : (s.setNmi v).flags = s.flags := rfl
@[simp] theorem fault_setNmi (s : State) (v : Bool) : (s.setNmi v).fault = s.fault := rfl
@[simp] theorem nmiPending_setNmi (s : State) (v : Bool) : (s.setNmi v).nmiPending = v := rfl
@[simp] theorem irqLine_setNmi (s : State) (v : Bool) : (s.setNmi v).irqLine = s.irqLine := rfl
@[simp] theorem mem_setNmi (s : State) (v : Bool) : (s.setNmi v).mem = s.mem := rfl
@[simp] theorem ppu_setNmi (s : State) (v : Bool) : (s.setNmi v).ppu = s.ppu := rfl
@[simp] theorem ramMirror_setNmi (s : State) (v : Bool) : (s.setNmi v).ramMirror = s.ramMirror := rfl
@[simp] theorem cartWritable_setNmi (s : State) (v : Bool) : (s.setNmi v).cartWritable = s.cartWritable := rfl
@[simp] theorem draws_setNmi (s : State) (v : Bool) : (s.setNmi v).draws = s.draws := rfl
@[simp] theorem setNmi_setNmi (s : State) (v v' : Bool) : (s.setNmi v).setNmi v' = s.setNmi v' := rfl
@[simp] theorem setNmi_self (s : State) : s.setNmi s.nmiPending = s := rfl

@[simp] theorem a_setIrq (s : State) (v : Bool) : (s.setIrq v).a = s.a := rfl
@[simp] theorem x_setIrq (s : State) (v : Bool) : (s.setIrq v).x = s.x := rfl
@[simp] theorem y_setIrq (s : State) (v : Bool) : (s.setIrq v).y = s.y := rfl
@[simp] theorem sp_setIrq (s : State) (v : Bool) : (s.setIrq v).sp = s.sp := rfl
@[simp] theorem pc_setIrq (s : State) (v : Bool) : (s.setIrq v).pc = s.pc := rfl
@[simp] theorem flags_setIrq (s : State) (v : Bool) : (s.setIrq v).flags = s.flags := rfl
@[simp] theorem fault_setIrq (s : State) (v : Bool) : (s.setIrq v).fault = s.fault := rfl
@[simp] theorem nmiPending_setIrq (s : State) (v : Bool) : (s.setIrq v).nmiPending = s.nmiPending := rfl
@[simp] theorem irqLine_setIrq (s : State) (v : Bool) : (s.setIrq v).irqLine = v := rfl
@[simp] theorem mem_setIrq (s : State) (v : Bool) : (s.setIrq v).mem = s.mem := rfl
@[simp] theorem ppu_setIrq (s : State) (v : Bool) : (s.setIrq v).ppu = s.ppu := rfl
@[simp] theorem ramMirror_setIrq (s : State) (v : Bool) : (s.setIrq v).ramMirror = s.ramMirror := rfl
@[simp] theorem cartWritable_setIrq (s : State) (v : Bool) : (s.setIrq v).cartWritable = s.cartWritable := rfl
@[simp] theorem draws_setIrq (s : State) (v : Bool) : (s.setIrq v).draws = s.draws := rfl
@[simp] theorem setIrq_setIrq (s : State) (v v' : Bool) : (s.setIrq v).setIrq v' = s.setIrq v' := rfl
@[simp] theorem setIrq_self (s : State) : s.setIrq s.irqLine = s := rfl

@[simp] theorem a_setMem (s : State) (v : Memory) : (s.setMem v).a = s.a := rfl
@[simp] theorem x_setMem (s : State) (v : Memory) : (s.setMem v).x = s.x := rfl
@[simp] theorem y_setMem (s : State) (v : Memory) : (s.setMem v).y = s.y := rfl
@[simp] theorem sp_setMem (s : State) (v : Memory) : (s.setMem v).sp = s.sp := rfl
@[simp] theorem pc_setMem (s : State) (v : Memory) : (s.setMem v).pc = s.pc := rfl
@[simp] theorem flags_setMem (s : State) (v : Memory) : (s.setMem v).flags = s.flags := rfl
@[simp] theorem fault_setMem (s : State) (v : Memory) : (s.setMem v).fault = s.fault := rfl
@[simp] theorem nmiPending_setMem (s : State) (v : Memory) : (s.setMem v).nmiPending = s.nmiPending := rfl
@[simp] theorem irqLine_setMem (s : State) (v : Memory) : (s.setMem v).irqLine = s.irqLine := rfl
@[simp] theorem mem_setMem (s : State) (v : Memory) : (s.setMem v).mem = v := rfl
@[simp] theorem ppu_setMem (s : State) (v : Memory) : (s.setMem v).ppu = s.ppu := rfl
@[simp] theorem ramMirror_setMem (s : State) (v : Memory) : (s.setMem v).ramMirror = s.ramMirror := rfl
@[simp] theorem cartWritable_setMem (s : State) (v : Memory) : (s.setMem v).cartWritable = s.cartWritable := rfl
@[simp] theorem draws_setMem (s : State) (v : Memory) : (s.setMem v).draws = s.draws := rfl
@[simp] theorem setMem_setMem (s : State) (v v' : Memory) : (s.setMem v).setMem v' = s.setMem v' := rfl
@[simp] theorem setMem_self (s : State) : s.setMem s.mem = s := rfl

@[simp] theorem a_setPpu (s : State) (v : Ppu) : (s.setPpu v).a = s.a := rfl
@[simp] theorem x_setPpu (s : State) (v : Ppu) : (s.setPpu v).x = s.x := rfl
@[simp] theorem y_setPpu (s : State) (v : Ppu) : (s.setPpu v).y = s.y := rfl
@[simp] theorem sp_setPpu (s : State) (v : Ppu) : (s.setPpu v).sp = s.sp := rfl
@[simp] theorem pc_setPpu (s : State) (v : Ppu) : (s.setPpu v).pc = s.pc := rfl
@[simp] theorem flags_setPpu (s : State) (v : Ppu) : (s.setPpu v).flags = s.flags := rfl
@[simp] theorem fault_setPpu (s : State) (v : Ppu) : (s.setPpu v).fault = s.fault := rfl
@[simp] theorem nmiPending_setPpu (s : State) (v : Ppu) : (s.setPpu v).nmiPending = s.nmiPending := rfl
@[simp] theorem irqLine_setPpu (s : State) (v : Ppu) : (s.setPpu v).irqLine = s.irqLine := rfl
@[simp] theorem mem_setPpu (s : State) (v : Ppu) : (s.setPpu v).mem = s.mem := rfl
@[simp] theorem ppu_setPpu (s : State) (v : Ppu) : (s.setPpu v).ppu = v := rfl
@[simp] theorem ramMirror_setPpu (s : State) (v : Ppu) : (s.setPpu v).ramMirror = s.ramMirror := rfl
@[simp] theorem cartWritable_setPpu (s : State) (v : Ppu) : (s.setPpu v).cartWritable = s.cartWritable := rfl
@[simp] theorem draws_setPpu (s : State) (v : Ppu) : (s.setPpu v).draws = s.draws := rfl
@[simp] theorem setPpu_setPpu (s : State) (v v' : Ppu) : (s.setPpu v).setPpu v' = s.setPpu v' := rfl
@[simp] theorem setPpu_self (s : State) : s.setPpu s.ppu = s := rfl

@[simp] theorem a_setDraws (s : State) (v : Nat) : (s.setDraws v).a = s.a := rfl
@[simp] theorem x_setDraws (s : State) (v : Nat) : (s.setDraws v).x = s.x := rfl
@[simp] theorem y_setDraws (s : State) (v : Nat) : (s.setDraws v).y = s.y := rfl
@[simp] theorem sp_setDraws (s : State) (v : Nat) : (s.setDraws v).sp = s.sp := rfl
@[simp] theorem pc_setDraws (s : State) (v : Nat) : (s.setDraws v).pc = s.pc := rfl
@[simp] theorem flags_setDraws (s : State) (v : Nat) : (s.setDraws v).flags = s.flags := rfl
@[simp] theorem fault_setDraws (s : State) (v : Nat) : (s.setDraws v).fault = s.fault := rfl
@[simp] theorem nmiPending_setDraws (s : State) (v : Nat) : (s.setDraws v).nmiPending = s.nmiPending := rfl
@[simp] theorem irqLine_setDraws (s : State) (v : Nat) : (s.setDraws v).irqLine = s.irqLine := rfl
@[simp] theorem mem_setDraws (s : State) (v : Nat) : (s.setDraws v).mem = s.mem := rfl
@[simp] theorem ppu_setDraws (s : State) (v : Nat) : (s.setDraws v).ppu = s.ppu := rfl
@[simp] theorem ramMirror_setDraws (s : State) (v : Nat) : (s.setDraws v).ramMirror = s.ramMirror := rfl
@[simp] theorem cartWritable_setDraws (s : State) (v : Nat) : (s.setDraws v).cartWritable = s.cartWritable := rfl
@[simp] theorem draws_setDraws (s : State) (v : Nat) : (s.setDraws v).draws = v := rfl
@[simp] theorem setDraws_setDraws (s : State) (v v' : Nat) : (s.setDraws v).setDraws v' = s.setDraws v' := rfl
@[simp] theorem setDraws_self (s : State) : s.setDraws s.draws = s := rfl

end Sys2Proof.Machine.State
end

