-- ==== Sys2Proof/Laws/Bus.lean ====
section
/-! SUPPORT. What the bus, the ports, the stack and the exception entry can do, said once: the fields each leaves alone, and
the closed form of the accesses that reach RAM or cartridge space. -/

namespace Sys2Proof.Laws.Bus

open Sys2Proof.Machine

/-- The regions a CPU address can select, with what each says of the address (20_memory.md R203). -/
theorem busRegion_cases (rm : Bool) (a : Word) :
    (a.toNat ≤ 0x1FFF ∧ busRegion rm a = .ram (if rm then a.toNat % 0x800 else a.toNat)) ∨
    (0x2000 ≤ a.toNat ∧ a.toNat ≤ 0x3FFF ∧ busRegion rm a = .port (portOf a.toNat)) ∨
    (a.toNat = 0x4014 ∧ busRegion rm a = .oamDma) ∨
    (0x4000 ≤ a.toNat ∧ a.toNat ≤ 0x401F ∧ a.toNat ≠ 0x4014 ∧ busRegion rm a = .extIo) ∨
    (0x4020 ≤ a.toNat ∧ busRegion rm a = .cart a.toNat) := by
  unfold busRegion
  by_cases h1 : a.toNat ≤ 0x1FFF
  · simp [h1]
  by_cases h2 : a.toNat ≤ 0x3FFF
  · simp [h1, h2]; omega
  by_cases h3 : a.toNat = 0x4014
  · simp [h3]
  by_cases h4 : a.toNat ≤ 0x401F
  · simp [h1, h2, h3, h4]; omega
  · simp [h1, h2, h3, h4]; omega

theorem busRegion_ram {rm : Bool} {a : Word} (h : a.toNat ≤ 0x1FFF) :
    busRegion rm a = .ram (if rm then a.toNat % 0x800 else a.toNat) := by
  simp [busRegion, h]

theorem busRegion_cart {rm : Bool} {a : Word} (h : 0x4020 ≤ a.toNat) : busRegion rm a = .cart a.toNat := by
  simp [busRegion, show ¬ a.toNat ≤ 0x1FFF by omega, show ¬ a.toNat ≤ 0x3FFF by omega, show a.toNat ≠ 0x4014 by omega,
    show ¬ a.toNat ≤ 0x401F by omega]

theorem busRegion_port (rm : Bool) {a : Word} (h : 0x2000 ≤ a.toNat) (h' : a.toNat ≤ 0x3FFF) :
    busRegion rm a = .port (portOf a.toNat) := by
  simp [busRegion, show ¬ a.toNat ≤ 0x1FFF by omega, h']

/-- The ports repeat every 8 bytes (48_ppu_ports.md R1200). -/
theorem busRegion_port_mirror (rm : Bool) (a : Word) :
    busRegion rm (BitVec.ofNat 16 (0x2000 + a.toNat % 8)) = .port (portOf a.toNat) := by
  have h : (BitVec.ofNat 16 (0x2000 + a.toNat % 8)).toNat = 0x2000 + a.toNat % 8 := by rw [BitVec.toNat_ofNat]; omega
  have h' : (0x2000 + a.toNat % 8) % 8 = a.toNat % 8 := by omega
  rw [busRegion_port rm (by omega) (by omega), h]
  simp only [portOf, h']

theorem busRegion_io (rm : Bool) {a : Word} (h : 0x4000 ≤ a.toNat) (h' : a.toNat ≤ 0x401F) :
    (a = 0x4014 ∧ busRegion rm a = .oamDma) ∨ (a ≠ 0x4014 ∧ busRegion rm a = .extIo) := by
  by_cases e : a = 0x4014
  · subst e
    exact .inl ⟨rfl, rfl⟩
  · have he : a.toNat ≠ 0x4014 := fun hn => e (BitVec.eq_of_toNat_eq hn)
    refine .inr ⟨e, ?_⟩
    simp [busRegion, show ¬ a.toNat ≤ 0x1FFF by omega, show ¬ a.toNat ≤ 0x3FFF by omega, he, h']

/-- A RAM region names a cell below $2000. -/
theorem busRegion_ram_le {rm : Bool} {a : Word} {c : Nat} (h : busRegion rm a = .ram c) : c ≤ 0x1FFF := by
  rcases busRegion_cases rm a with ⟨_, g⟩ | ⟨_, _, g⟩ | ⟨_, g⟩ | ⟨_, _, _, g⟩ | ⟨_, g⟩ <;> rw [g] at h <;> cases h
  split <;> omega

/-- A cartridge region names the address's own cell, from $4020 on. -/
theorem busRegion_cart_ge {rm : Bool} {a : Word} {c : Nat} (h : busRegion rm a = .cart c) : 0x4020 ≤ c ∧ c = a.toNat := by
  rcases busRegion_cases rm a with ⟨_, g⟩ | ⟨_, _, g⟩ | ⟨_, g⟩ | ⟨_, _, _, g⟩ | ⟨hle, g⟩ <;> rw [g] at h <;> cases h
  exact ⟨hle, rfl⟩

/-- Storing in the cell an address selects is seen at every address that selects it, and at no other (20_memory.md R205,
R206). -/
theorem byteAt_setMem {s : State} {a : Word} {cell : Nat} (v : Byte) (hw : Memory.wf s.mem = true)
    (hc : busRegion s.ramMirror a = .ram cell ∨ busRegion s.ramMirror a = .cart cell) (b : Word) :
    (Safety.SameByte s b a → byteAt (s.setMem (memPut cell v s.mem)) b = some v) ∧
      (¬ Safety.SameByte s b a → byteAt (s.setMem (memPut cell v s.mem)) b = byteAt s b) := by
  simp only [Safety.SameByte, byteAt, State.ramMirror_setMem, State.mem_setMem]
  refine ⟨fun hs => ?_, fun hs => ?_⟩
  · rw [hs]
    rcases hc with h | h <;> simp only [h, Memory.memGet_memPut_self hw]
  · have hne : ∀ c, (busRegion s.ramMirror b = .ram c ∨ busRegion s.ramMirror b = .cart c) → c ≠ cell := by
      rintro c h rfl
      rcases h with h | h <;> rcases hc with h' | h'
      · exact hs (h.trans h'.symm)
      · have := busRegion_ram_le h
        have := busRegion_cart_ge h'
        omega
      · have := busRegion_ram_le h'
        have := busRegion_cart_ge h
        omega
      · exact hs (h.trans h'.symm)
    split
    · rename_i h; rw [Memory.memGet_memPut_other (hne _ (.inl h))]
    · rfl
    · rfl
    · rfl
    · rename_i h; rw [Memory.memGet_memPut_other (hne _ (.inr h))]

/-! ## Reads -/

/-- A bus read does not depend on PC and leaves it alone. -/
theorem memRead_setPc (a p : Word) (s : State) : memRead a (s.setPc p) = ((memRead a s).1, (memRead a s).2.setPc p) := by
  unfold memRead
  simp only [State.ramMirror_setPc]
  split
  · rfl
  · rename_i q _
    cases q <;> rfl
  · rfl
  · rfl
  · rfl

/-- What a port read can change: vblank, w, the read buffer, the VRAM pointer and the draw counter (20_memory.md R204). -/
theorem portRead_frame (p : Port) (s : State) :
    ∃ vb w rb va n, (portRead p s).2 =
      { s with ppu := { s.ppu with vblank := vb, w := w, readBuffer := rb, vramAddr := va }, draws := n } := by
  cases p
  case ppuData => exact ⟨_, _, _, _, _, rfl⟩
  case ppuStatus => exact ⟨_, _, _, _, _, rfl⟩
  all_goals exact ⟨s.ppu.vblank, s.ppu.w, s.ppu.readBuffer, s.ppu.vramAddr, _, rfl⟩

/-- What a bus read can change (20_memory.md R204). -/
theorem memRead_frame (a : Word) (s : State) :
    ∃ vb w rb va n, (memRead a s).2 =
      { s with ppu := { s.ppu with vblank := vb, w := w, readBuffer := rb, vramAddr := va }, draws := n } := by
  unfold memRead
  split
  case h_2 p _ => exact portRead_frame p s
  all_goals exact ⟨s.ppu.vblank, s.ppu.w, s.ppu.readBuffer, s.ppu.vramAddr, _, rfl⟩

section MemReadFields
variable (a : Word) (s : State)

@[simp] theorem memRead_a : (memRead a s).2.a = s.a := by obtain ⟨_, _, _, _, _, h⟩ := memRead_frame a s; rw [h]
@[simp] theorem memRead_x : (memRead a s).2.x = s.x := by obtain ⟨_, _, _, _, _, h⟩ := memRead_frame a s; rw [h]
@[simp] theorem memRead_y : (memRead a s).2.y = s.y := by obtain ⟨_, _, _, _, _, h⟩ := memRead_frame a s; rw [h]
@[simp] theorem memRead_sp : (memRead a s).2.sp = s.sp := by obtain ⟨_, _, _, _, _, h⟩ := memRead_frame a s; rw [h]
@[simp] theorem memRead_pc : (memRead a s).2.pc = s.pc := by obtain ⟨_, _, _, _, _, h⟩ := memRead_frame a s; rw [h]
@[simp] theorem memRead_flags : (memRead a s).2.flags = s.flags := by
  obtain ⟨_, _, _, _, _, h⟩ := memRead_frame a s; rw [h]
@[simp] theorem memRead_fault : (memRead a s).2.fault = s.fault := by
  obtain ⟨_, _, _, _, _, h⟩ := memRead_frame a s; rw [h]
@[simp] theorem memRead_nmiPending : (memRead a s).2.nmiPending = s.nmiPending := by
  obtain ⟨_, _, _, _, _, h⟩ := memRead_frame a s; rw [h]
@[simp] theorem memRead_irqLine : (memRead a s).2.irqLine = s.irqLine := by
  obtain ⟨_, _, _, _, _, h⟩ := memRead_frame a s; rw [h]
@[simp] theorem memRead_mem : (memRead a s).2.mem = s.mem := by obtain ⟨_, _, _, _, _, h⟩ := memRead_frame a s; rw [h]
@[simp] theorem memRead_ramMirror : (memRead a s).2.ramMirror = s.ramMirror := by
  obtain ⟨_, _, _, _, _, h⟩ := memRead_frame a s; rw [h]
@[simp] theorem memRead_cartWritable : (memRead a s).2.cartWritable = s.cartWritable := by
  obtain ⟨_, _, _, _, _, h⟩ := memRead_frame a s; rw [h]
@[simp] theorem memRead_vram : (memRead a s).2.ppu.vram = s.ppu.vram := by
  obtain ⟨_, _, _, _, _, h⟩ := memRead_frame a s; rw [h]
@[simp] theorem memRead_oam : (memRead a s).2.ppu.oam = s.ppu.oam := by
  obtain ⟨_, _, _, _, _, h⟩ := memRead_frame a s; rw [h]
@[simp] theorem memRead_fb : (memRead a s).2.ppu.fb = s.ppu.fb := by
  obtain ⟨_, _, _, _, _, h⟩ := memRead_frame a s; rw [h]
@[simp] theorem memRead_mirroring : (memRead a s).2.ppu.mirroring = s.ppu.mirroring := by
  obtain ⟨_, _, _, _, _, h⟩ := memRead_frame a s; rw [h]
@[simp] theorem memRead_oamAddr : (memRead a s).2.ppu.oamAddr = s.ppu.oamAddr := by
  obtain ⟨_, _, _, _, _, h⟩ := memRead_frame a s; rw [h]

end MemReadFields

/-- A read of RAM has no side effect. -/
theorem memRead_ram {a : Word} (h : a.toNat ≤ 0x1FFF) (s : State) :
    memRead a s = (memGet s.mem (if s.ramMirror then a.toNat % 0x800 else a.toNat), s) := by
  simp [memRead, busRegion_ram h]

/-- A read of cartridge space has no side effect. -/
theorem memRead_cart {a : Word} (h : 0x4020 ≤ a.toNat) (s : State) : memRead a s = (memGet s.mem a.toNat, s) := by
  simp [memRead, busRegion_cart h]

/-- A read of an address that holds a byte gives it, with no side effect. -/
theorem memRead_of_byteAt {a : Word} {s : State} {v : Byte} (h : byteAt s a = some v) : memRead a s = (v, s) := by
  unfold byteAt at h
  unfold memRead
  split at h <;> simp_all

/-! ## Writes -/

/-- The fields a port write leaves alone. -/
theorem portWrite_frame (p : Port) (v : Byte) (s : State) :
    ∃ ppu nmi, portWrite p v s = { s with ppu := ppu, nmiPending := nmi } ∧ ppu.fb = s.ppu.fb ∧
      ppu.mirroring = s.ppu.mirroring := by
  cases p
  case ppuCtrl =>
    simp only [portWrite, writeCtrl]
    split
    · exact ⟨_, _, rfl, rfl, rfl⟩
    · exact ⟨_, s.nmiPending, rfl, rfl, rfl⟩
  case ppuStatus => exact ⟨s.ppu, s.nmiPending, rfl, rfl, rfl⟩
  case ppuScroll =>
    refine ⟨writeScroll v s.ppu, s.nmiPending, rfl, ?_, ?_⟩ <;> (unfold writeScroll; split <;> rfl)
  case ppuAddr =>
    refine ⟨writeAddr v s.ppu, s.nmiPending, rfl, ?_, ?_⟩ <;> (unfold writeAddr; split <;> rfl)
  all_goals exact ⟨_, s.nmiPending, rfl, rfl, rfl⟩

/-- The fields one byte of OAM DMA leaves alone. -/
theorem dmaByte_frame (page i : Byte) (s : State) :
    ∃ ppu n, dmaByte page i s = { s with ppu := ppu, draws := n } ∧ ppu.fb = s.ppu.fb ∧
      ppu.mirroring = s.ppu.mirroring := by
  obtain ⟨_, _, _, _, _, h⟩ := memRead_frame (joinBytes page i) s
  refine ⟨(dmaByte page i s).ppu, (dmaByte page i s).draws, ?_, ?_, ?_⟩ <;> simp [dmaByte, h, oamWrite, State.setPpu]

/-- The fields OAM DMA leaves alone (48_ppu_ports.md R1214). -/
theorem dmaFrom_frame (page : Byte) (n i : Nat) (s : State) :
    ∃ ppu k, dmaFrom page i n s = { s with ppu := ppu, draws := k } ∧ ppu.fb = s.ppu.fb ∧
      ppu.mirroring = s.ppu.mirroring := by
  induction n generalizing i s with
  | zero => exact ⟨s.ppu, s.draws, rfl, rfl, rfl⟩
  | succ n ih =>
    obtain ⟨p, k, h, hf, hm⟩ := dmaByte_frame page (BitVec.ofNat 8 i) s
    obtain ⟨p', k', h', hf', hm'⟩ := ih (i + 1) (dmaByte page (BitVec.ofNat 8 i) s)
    refine ⟨p', k', ?_, ?_, ?_⟩
    · rw [dmaFrom, h', h]
    · rw [hf', h]; exact hf
    · rw [hm', h]; exact hm

/-- The fields a bus write leaves alone (20_memory.md R205): every CPU register but nmi_pending's latch, the parameters, the
frame buffer and the mirroring mode. -/
theorem memWrite_frame (a : Word) (v : Byte) (s : State) :
    ∃ mem ppu nmi n, memWrite a v s = { s with mem := mem, ppu := ppu, nmiPending := nmi, draws := n } ∧
      ppu.fb = s.ppu.fb ∧ ppu.mirroring = s.ppu.mirroring := by
  unfold memWrite
  split
  case h_2 p _ =>
    obtain ⟨q, nmi, h, hf, hm⟩ := portWrite_frame p v s
    exact ⟨s.mem, q, nmi, s.draws, by rw [h], hf, hm⟩
  case h_3 =>
    obtain ⟨q, n, h, hf, hm⟩ := dmaFrom_frame v 256 0 s
    exact ⟨s.mem, q, s.nmiPending, n, by rw [oamDma, h], hf, hm⟩
  case h_1 => exact ⟨_, s.ppu, s.nmiPending, s.draws, rfl, rfl, rfl⟩
  case h_4 => exact ⟨s.mem, s.ppu, s.nmiPending, s.draws, rfl, rfl, rfl⟩
  case h_5 =>
    split
    · exact ⟨_, s.ppu, s.nmiPending, s.draws, rfl, rfl, rfl⟩
    · exact ⟨s.mem, s.ppu, s.nmiPending, s.draws, rfl, rfl, rfl⟩

section MemWriteFields
variable (a : Word) (v : Byte) (s : State)

@[simp] theorem memWrite_a : (memWrite a v s).a = s.a := by
  obtain ⟨_, _, _, _, h, -⟩ := memWrite_frame a v s; rw [h]
@[simp] theorem memWrite_x : (memWrite a v s).x = s.x := by
  obtain ⟨_, _, _, _, h, -⟩ := memWrite_frame a v s; rw [h]
@[simp] theorem memWrite_y : (memWrite a v s).y = s.y := by
  obtain ⟨_, _, _, _, h, -⟩ := memWrite_frame a v s; rw [h]
@[simp] theorem memWrite_sp : (memWrite a v s).sp = s.sp := by
  obtain ⟨_, _, _, _, h, -⟩ := memWrite_frame a v s; rw [h]
@[simp] theorem memWrite_pc : (memWrite a v s).pc = s.pc := by
  obtain ⟨_, _, _, _, h, -⟩ := memWrite_frame a v s; rw [h]
@[simp] theorem memWrite_flags : (memWrite a v s).flags = s.flags := by
  obtain ⟨_, _, _, _, h, -⟩ := memWrite_frame a v s; rw [h]
@[simp] theorem memWrite_fault : (memWrite a v s).fault = s.fault := by
  obtain ⟨_, _, _, _, h, -⟩ := memWrite_frame a v s; rw [h]
@[simp] theorem memWrite_irqLine : (memWrite a v s).irqLine = s.irqLine := by
  obtain ⟨_, _, _, _, h, -⟩ := memWrite_frame a v s; rw [h]
@[simp] theorem memWrite_ramMirror : (memWrite a v s).ramMirror = s.ramMirror := by
  obtain ⟨_, _, _, _, h, -⟩ := memWrite_frame a v s; rw [h]
@[simp] theorem memWrite_cartWritable : (memWrite a v s).cartWritable = s.cartWritable := by
  obtain ⟨_, _, _, _, h, -⟩ := memWrite_frame a v s; rw [h]
@[simp] theorem memWrite_fb : (memWrite a v s).ppu.fb = s.ppu.fb := by
  obtain ⟨_, _, _, _, h, hf, -⟩ := memWrite_frame a v s; rw [h]; exact hf
@[simp] theorem memWrite_mirroring : (memWrite a v s).ppu.mirroring = s.ppu.mirroring := by
  obtain ⟨_, _, _, _, h, -, hm⟩ := memWrite_frame a v s; rw [h]; exact hm

end MemWriteFields

/-- A write of RAM stores in the address's cell and does nothing else. -/
theorem memWrite_ram {a : Word} (h : a.toNat ≤ 0x1FFF) (v : Byte) (s : State) :
    memWrite a v s = s.setMem (memPut (if s.ramMirror then a.toNat % 0x800 else a.toNat) v s.mem) := by
  simp [memWrite, busRegion_ram h]

/-! ## The stack -/

theorem stackAddr_toNat (sp : Byte) : (stackAddr sp).toNat = 0x100 + sp.toNat := by
  have h : stackAddr sp = (1#8 ++ sp : BitVec 16) := rfl
  rw [h, BitVec.toNat_append, ← Nat.shiftLeft_add_eq_or_of_lt sp.isLt]
  rfl

/-- Push stores at $0100 + S, whatever RAM_MIRROR is, and decrements S (47_stack_jump.md R1100). -/
theorem push_eq (v : Byte) (s : State) :
    push v s = (s.setMem (memPut (0x100 + s.sp.toNat) v s.mem)).setSp (s.sp - 1) := by
  have hs := s.sp.isLt
  have hle : (stackAddr s.sp).toNat ≤ 0x1FFF := by rw [stackAddr_toNat]; omega
  have hmod : (0x100 + s.sp.toNat) % 0x800 = 0x100 + s.sp.toNat := by omega
  simp [push, memWrite_ram hle, stackAddr_toNat, hmod]

/-- Pull reads at $0100 + (S + 1) with no other effect (47_stack_jump.md R1101). -/
theorem pull_eq (s : State) : pull s = (memGet s.mem (0x100 + (s.sp + 1).toNat), s.setSp (s.sp + 1)) := by
  have hs := (s.sp + 1).isLt
  have hle : (stackAddr (s.sp + 1)).toNat ≤ 0x1FFF := by rw [stackAddr_toNat]; omega
  have hmod : (0x100 + (s.sp + 1).toNat) % 0x800 = 0x100 + (s.sp + 1).toNat := by omega
  simp only [pull, State.sp_setSp, memRead_ram hle, stackAddr_toNat, hmod, State.mem_setSp, State.ramMirror_setSp, ite_self]

/-- A 16-bit read of a vector has no side effect (00_scope.md R16, 20_memory.md R209). -/
theorem memRead16_cart {a : Word} (h : 0x4020 ≤ a.toNat) (h' : a.toNat < 0xFFFF) (s : State) :
    memRead16 a s = (joinBytes (memGet s.mem (a.toNat + 1)) (memGet s.mem a.toNat), s) := by
  have h1 : (a + 1).toNat = a.toNat + 1 := by
    rw [BitVec.toNat_add]; show (a.toNat + 1) % 2 ^ 16 = _; omega
  simp only [memRead16, memRead_cart h, memRead_cart (show 0x4020 ≤ (a + 1).toNat by omega), h1]

/-- Entering a handler, in closed form: three pushes, I set, PC from the vector (60_exceptions.md R1607). -/
theorem enterHandler_eq (ret : Word) (b : Bool) {vec : Word} (h : 0x4020 ≤ vec.toNat) (h' : vec.toNat < 0xFFFF)
    (s : State) :
    enterHandler ret b vec s =
      { s with
        mem := memPut (0x100 + (s.sp - 1 - 1).toNat) (packP b s.flags)
          (memPut (0x100 + (s.sp - 1).toNat) (lowByte ret) (memPut (0x100 + s.sp.toNat) (highByte ret) s.mem))
        sp := s.sp - 1 - 1 - 1
        flags := { s.flags with i := true }
        pc :=
          (let m := memPut (0x100 + (s.sp - 1 - 1).toNat) (packP b s.flags)
            (memPut (0x100 + (s.sp - 1).toNat) (lowByte ret) (memPut (0x100 + s.sp.toNat) (highByte ret) s.mem))
          joinBytes (memGet m (vec.toNat + 1)) (memGet m vec.toNat)) } := by
  simp only [enterHandler, push_eq, memRead16_cart h h']
  rfl

/-- Returning from a handler, in closed form (60_exceptions.md R1611). -/
theorem returnFromHandler_eq (s : State) :
    returnFromHandler s =
      { s with
        sp := s.sp + 1 + 1 + 1
        flags := unpackP (memGet s.mem (0x100 + (s.sp + 1).toNat))
        pc := joinBytes (memGet s.mem (0x100 + (s.sp + 1 + 1 + 1).toNat)) (memGet s.mem (0x100 + (s.sp + 1 + 1).toNat)) } := by
  simp only [returnFromHandler, pull_eq]
  rfl

end Sys2Proof.Laws.Bus
end

