-- ==== Sys2Proof/Laws/Operands.lean ====
section
/-! SUPPORT. What resolving, reading, storing and modifying an operand can do, said once, and the closed form of each
addressing mode that reads only the zero page. -/

namespace Sys2Proof.Laws.Operands

open Sys2Proof.Machine Sys2Proof.Laws.Bus

theorem zext16_toNat (b : Byte) : (zext16 b).toNat = b.toNat := by
  have := b.isLt
  simp only [zext16, BitVec.toNat_setWidth]
  omega

/-- The zero page is RAM, also when RAM_MIRROR folds it: a read there has no side effect. -/
theorem memRead_zeroPage (p : Byte) (s : State) : memRead (zext16 p) s = (memGet s.mem p.toNat, s) := by
  have hp := p.isLt
  have hle : (zext16 p).toNat ≤ 0x1FFF := by rw [zext16_toNat]; omega
  have hmod : p.toNat % 0x800 = p.toNat := by omega
  rw [memRead_ram hle, zext16_toNat, hmod, ite_self]

/-- A zero-page pointer: low byte at p, high byte at p + 1 modulo 256, no side effect (40_addressing.md R414, R415). -/
theorem zeroPagePointer_eq (p : Byte) (s : State) :
    zeroPagePointer p s = (joinBytes (memGet s.mem (p + 1).toNat) (memGet s.mem p.toNat), s) := by
  simp only [zeroPagePointer, memRead_zeroPage]

/-- The resolver changes nothing but what its bus reads change (40_addressing.md R404). -/
theorem resolve_frame (o : Operand) (s : State) :
    ∃ vb w rb va n, (resolve o s).2 =
      { s with ppu := { s.ppu with vblank := vb, w := w, readBuffer := rb, vramAddr := va }, draws := n } := by
  cases o
  case ind w =>
    obtain ⟨_, _, _, _, _, h⟩ := memRead_frame w s
    obtain ⟨_, _, _, _, _, h'⟩ := memRead_frame ((w &&& 0xFF00) ||| ((w + 1) &&& 0x00FF)) (memRead w s).2
    simp only [resolve, pageWrapPointer]
    rw [h', h]
    exact ⟨_, _, _, _, _, rfl⟩
  case izx n => simp only [resolve, zeroPagePointer_eq]; exact ⟨_, _, _, _, _, rfl⟩
  case izy n => simp only [resolve, zeroPagePointer_eq]; exact ⟨_, _, _, _, _, rfl⟩
  all_goals exact ⟨s.ppu.vblank, s.ppu.w, s.ppu.readBuffer, s.ppu.vramAddr, s.draws, rfl⟩

/-- Every mode but the indirect one resolves without a side effect. -/
theorem resolve_state {o : Operand} (h : o.mode ≠ .ind) (s : State) : (resolve o s).2 = s := by
  cases o
  case ind w => exact absurd rfl h
  all_goals simp [resolve, zeroPagePointer_eq]

/-- Reading an operand changes nothing but what a bus read changes (40_addressing.md R417). -/
theorem operandAt_frame (t : Resolved) (s : State) :
    ∃ vb w rb va n, (operandAt t s).2 =
      { s with ppu := { s.ppu with vblank := vb, w := w, readBuffer := rb, vramAddr := va }, draws := n } := by
  cases t
  case addr ea => exact memRead_frame ea s
  all_goals exact ⟨s.ppu.vblank, s.ppu.w, s.ppu.readBuffer, s.ppu.vramAddr, s.draws, rfl⟩

/-- Loading an operand changes nothing but what bus reads change. -/
theorem loadOperand_frame (o : Operand) (s : State) :
    ∃ vb w rb va n, (loadOperand o s).2 =
      { s with ppu := { s.ppu with vblank := vb, w := w, readBuffer := rb, vramAddr := va }, draws := n } := by
  obtain ⟨_, _, _, _, _, h⟩ := resolve_frame o s
  obtain ⟨_, _, _, _, _, h'⟩ := operandAt_frame (resolve o s).1 (resolve o s).2
  simp only [loadOperand]
  rw [h', h]
  exact ⟨_, _, _, _, _, rfl⟩

section LoadFields
variable (o : Operand) (s : State)

@[simp] theorem loadOperand_a : (loadOperand o s).2.a = s.a := by
  obtain ⟨_, _, _, _, _, h⟩ := loadOperand_frame o s; rw [h]
@[simp] theorem loadOperand_x : (loadOperand o s).2.x = s.x := by
  obtain ⟨_, _, _, _, _, h⟩ := loadOperand_frame o s; rw [h]
@[simp] theorem loadOperand_y : (loadOperand o s).2.y = s.y := by
  obtain ⟨_, _, _, _, _, h⟩ := loadOperand_frame o s; rw [h]
@[simp] theorem loadOperand_sp : (loadOperand o s).2.sp = s.sp := by
  obtain ⟨_, _, _, _, _, h⟩ := loadOperand_frame o s; rw [h]
@[simp] theorem loadOperand_pc : (loadOperand o s).2.pc = s.pc := by
  obtain ⟨_, _, _, _, _, h⟩ := loadOperand_frame o s; rw [h]
@[simp] theorem loadOperand_flags : (loadOperand o s).2.flags = s.flags := by
  obtain ⟨_, _, _, _, _, h⟩ := loadOperand_frame o s; rw [h]
@[simp] theorem loadOperand_mem : (loadOperand o s).2.mem = s.mem := by
  obtain ⟨_, _, _, _, _, h⟩ := loadOperand_frame o s; rw [h]

end LoadFields

/-- An operand whose address holds a byte loads without a side effect. -/
theorem loadOperand_of_byteAt {o : Operand} {s : State} {ea : Word} {v : Byte} (h : resolve o s = (.addr ea, s))
    (hb : byteAt s ea = some v) : loadOperand o s = (v, s) := by
  simp only [loadOperand, h, operandAt]
  exact memRead_of_byteAt hb

/-- Storing to an operand leaves the X and Y registers, S, PC, the flags, the fault, the IRQ line, the parameters, the frame
buffer and the mirroring alone. -/
theorem storeAt_frame (t : Resolved) (v : Byte) (s : State) :
    ∃ a mem ppu nmi n, storeAt t v s = { s with a := a, mem := mem, ppu := ppu, nmiPending := nmi, draws := n } ∧
      ppu.fb = s.ppu.fb ∧ ppu.mirroring = s.ppu.mirroring := by
  cases t
  case noAddr => exact ⟨v, s.mem, s.ppu, s.nmiPending, s.draws, rfl, rfl, rfl⟩
  case imm n => exact ⟨s.a, s.mem, s.ppu, s.nmiPending, s.draws, rfl, rfl, rfl⟩
  case addr ea =>
    obtain ⟨m, p, nmi, n, h, hf, hm⟩ := memWrite_frame ea v s
    exact ⟨s.a, m, p, nmi, n, by rw [storeAt, h], hf, hm⟩

end Sys2Proof.Laws.Operands
end

