-- ==== Sys2Proof/Laws/Exec.lean ====
section
/-! SUPPORT. exec by mnemonic and operand: one effect per mnemonic over the instruction's operand, so that a claim about a
mnemonic is one case and not one per addressing mode; and the fetch of bytes that RAM or cartridge space holds. -/

namespace Sys2Proof.Laws.Exec

open Sys2Proof.Machine

/-- The effect of a conditional branch on an operand (43_branch.md R700). -/
def branchEffect (cond : Bool) (o : Operand) (s : State) : State :=
  let t := resolve o s
  if cond then jumpTo t.1 t.2 else t.2

/-- The effect of each mnemonic on its operand. -/
def effect (m : Mnemonic) (o : Operand) (s : State) : State :=
  match m with
  | .ora => effOra o s
  | .and => effAnd o s
  | .eor => effEor o s
  | .bit => effBit o s
  | .asl => effAsl o s
  | .lsr => effLsr o s
  | .rol => effRol o s
  | .ror => effRor o s
  | .bpl => branchEffect (!s.flags.n) o s
  | .bmi => branchEffect s.flags.n o s
  | .bvc => branchEffect (!s.flags.v) o s
  | .bvs => branchEffect s.flags.v o s
  | .bcc => branchEffect (!s.flags.c) o s
  | .bcs => branchEffect s.flags.c o s
  | .bne => branchEffect (!s.flags.z) o s
  | .beq => branchEffect s.flags.z o s
  | .clc => s.setFlags { s.flags with c := false }
  | .sec => s.setFlags { s.flags with c := true }
  | .cli => s.setFlags { s.flags with i := false }
  | .sei => s.setFlags { s.flags with i := true }
  | .clv => s.setFlags { s.flags with v := false }
  | .cld => s.setFlags { s.flags with d := false }
  | .sed => s.setFlags { s.flags with d := true }
  | .adc => effAdc o s
  | .sbc => effSbc o s
  | .cmp => effCmp o s
  | .cpx => effCpx o s
  | .cpy => effCpy o s
  | .inc => effInc o s
  | .dec => effDec o s
  | .inx => setXNZ (s.x + 1) s
  | .iny => setYNZ (s.y + 1) s
  | .dex => setXNZ (s.x - 1) s
  | .dey => setYNZ (s.y - 1) s
  | .lda => effLda o s
  | .ldx => effLdx o s
  | .ldy => effLdy o s
  | .sta => effSta o s
  | .stx => effStx o s
  | .sty => effSty o s
  | .tax => setXNZ s.a s
  | .tay => setYNZ s.a s
  | .txa => setANZ s.x s
  | .tya => setANZ s.y s
  | .tsx => setXNZ s.sp s
  | .txs => s.setSp s.x
  | .pha => push s.a s
  | .php => push (packP true s.flags) s
  | .pla => setANZ (pull s).1 (pull s).2
  | .plp => (pull s).2.setFlags (unpackP (pull s).1)
  | .jmp => effJmp o s
  | .jsr => effJsr o s
  | .rts => effRts s
  | .rti => returnFromHandler s
  | .brk => enterHandler (s.pc + 1) true irqVector s
  | .nop => s

/-- Every meaning is its mnemonic's effect on its operand. -/
theorem exec_eq_effect (i : Instr) (s : State) : exec i s = .next (effect i.mnemonic i.operand s) := by
  cases i <;> rfl

/-- A fetch at an address that holds a byte reads it and advances PC, and does nothing else (40_addressing.md R402). -/
theorem fetch8_of_byteAt {s : State} {v : Byte} (h : byteAt s s.pc = some v) : fetch8 s = (v, s.setPc (s.pc + 1)) := by
  simp only [fetch8, Bus.memRead_of_byteAt h]

/-- What stands at an address does not depend on PC. -/
@[simp] theorem byteAt_setPc (s : State) (a b : Word) : byteAt (s.setPc a) b = byteAt s b := rfl

/-- A fetch at an address is a bus read there and PC one past it (40_addressing.md R402, R404). -/
theorem fetch8_setPc (t : State) (p : Word) : fetch8 (t.setPc p) = ((memRead p t).1, (memRead p t).2.setPc (p + 1)) := by
  simp only [fetch8, State.pc_setPc, Bus.memRead_setPc]
  rfl

theorem fetch8_eq (s : State) : fetch8 s = ((memRead s.pc s).1, (memRead s.pc s).2.setPc (s.pc + 1)) := by
  simp only [fetch8, Bus.memRead_pc]

/-- A step whose poll lets an instruction be fetched is its fetch and then its meaning or the undefined-opcode fault
(60_exceptions.md R1606). -/
theorem step_of_fetches {s : State} (h : Safety.Fetches s) :
    step s = match fetchInstr s with
      | .undefined op _ => .fault (.undefinedOpcode op s.pc)
      | .instr i t => exec i t := by
  obtain ⟨hf, hn, hi⟩ := h
  have hq : (s.irqLine && !s.flags.i) = false := by rcases hi with h | h <;> simp [h]
  simp only [step, stepEvent, hf, hn, hq]
  cases fetchInstr s <;> rfl

/-- Reading and storing an operand leave the flags alone. -/
theorem resolve_flags (o : Operand) (s : State) : (resolve o s).2.flags = s.flags := by
  obtain ⟨_, _, _, _, _, h⟩ := Operands.resolve_frame o s; rw [h]

theorem operandAt_flags (ea : Resolved) (s : State) : (operandAt ea s).2.flags = s.flags := by
  obtain ⟨_, _, _, _, _, h⟩ := Operands.operandAt_frame ea s; rw [h]

theorem storeAt_flags (ea : Resolved) (v : Byte) (s : State) : (storeAt ea v s).flags = s.flags := by
  obtain ⟨_, _, _, _, _, h, -⟩ := Operands.storeAt_frame ea v s; rw [h]

/-- A read-modify-write in closed form: one read, one write, the flags (42_shift.md R604). -/
theorem modifyOperand_eq {res : Flags → Byte → Byte} {fl : Flags → Byte → Flags} {o : Operand} {s t u : State}
    {ea : Resolved} {v : Byte} (hr : resolve o s = (ea, t)) (ho : operandAt ea t = (v, u)) :
    modifyOperand res fl o s = (storeAt ea (res s.flags v) u).setFlags (fl s.flags v) := by
  have h1 : t.flags = s.flags := by
    have := resolve_flags o s
    rwa [hr] at this
  have h2 : u.flags = s.flags := by
    have := operandAt_flags ea t
    rw [ho] at this
    exact this.trans h1
  simp [modifyOperand, hr, ho, h2]

end Sys2Proof.Laws.Exec
end

