-- ==== Sys2Proof/Laws/Vram.lean ====
section
/-! SUPPORT. The PPU address space: every address folds onto a canonical cell, a write reads back at every address of its
cell, and OAM and the frame buffer likewise. -/

namespace Sys2Proof.Laws.Vram

open Sys2Proof.Machine Sys2Proof.Safety

theorem physNT_le_one (m : Mirroring) {q : Nat} (h : q < 4) : physNT m q ≤ 1 := by
  cases m <;> simp only [physNT] <;> omega

/-- Canon answers a canonical cell, for every address (20_memory.md R222). -/
theorem canon_isVramCell (m : Mirroring) (a : Nat) : isVramCell (canon m a) = true := by
  unfold canon
  simp only
  split
  · simp only [isVramCell, Bool.or_eq_true, decide_eq_true_eq]
    omega
  split
  · have hq : (a % 0x4000 - 0x2000) % 0x1000 / 0x400 < 4 := by omega
    have := physNT_le_one m hq
    simp only [isVramCell, Bool.or_eq_true, decide_eq_true_eq]
    left
    generalize physNT m _ = t at this ⊢
    omega
  · generalize hp : a % 0x4000 % 0x20 = p
    have : p < 32 := by omega
    clear hp
    interval_cases p <;> rfl

theorem canon_lt (m : Mirroring) (a : Nat) : canon m a < 0x4000 := by
  have h := canon_isVramCell m a
  simp only [isVramCell, Bool.or_eq_true, Bool.and_eq_true, decide_eq_true_eq] at h
  omega

@[simp] theorem vramWrite_mirroring (p : Ppu) (a : Nat) (v : Byte) : (vramWrite p a v).mirroring = p.mirroring := rfl

/-- A write to the PPU address space leaves every other cell alone (20_memory.md R225). -/
theorem vramRead_vramWrite_other {p : Ppu} {a b : Nat} {v : Byte} (h : canon p.mirroring b ≠ canon p.mirroring a) :
    vramRead (vramWrite p a v) b = vramRead p b := by
  simp only [vramRead, vramWrite]
  exact Memory.vramGet_vramPut_other h

/-- A write to the PPU address space reads back at every address of its cell (20_memory.md R225). -/
theorem vramRead_vramWrite_same {p : Ppu} {a b : Nat} {v : Byte} (hp : vramWf p = true)
    (h : canon p.mirroring b = canon p.mirroring a) : vramRead (vramWrite p a v) b = v := by
  simp only [vramWf, Bool.and_eq_true] at hp
  simp only [vramRead, vramWrite, h]
  exact Memory.vramGet_vramPut_self hp.1

/-- A write to the PPU address space keeps vram's form. -/
theorem vramWf_vramWrite {p : Ppu} {a : Nat} {v : Byte} (hp : vramWf p = true) : vramWf (vramWrite p a v) = true := by
  simp only [vramWf, Bool.and_eq_true] at hp ⊢
  exact ⟨Memory.canonical_put hp.1, Memory.all_put hp.2 (canon_isVramCell _ _)⟩

/-- A write to OAM keeps its form. -/
theorem oamWf_oamWrite {p : Ppu} {k v : Byte} (hp : oamWf p = true) : oamWf (oamWrite p k v) = true := by
  simp only [oamWf, Bool.and_eq_true] at hp ⊢
  exact ⟨Memory.canonical_put hp.1, Memory.all_put (p := fun k => decide (k < 256)) hp.2 (by simpa using k.isLt)⟩

/-- A write to the frame buffer keeps its form: a pixel outside is dropped (49_ppu_compositors.md R1307, R1313). -/
theorem fbWf_plot {p : Ppu} {x y : Int} {px : Pixel} (hp : fbWf p = true) : fbWf (plot x y px p) = true := by
  unfold plot
  split
  · simp only [fbWf, Bool.and_eq_true] at hp ⊢
    refine ⟨Memory.canonical_put hp.1, Memory.all_put (p := fun k => decide (k < 65536)) hp.2 ?_⟩
    simp only [decide_eq_true_eq]
    omega
  · exact hp

/-- A write to the frame buffer changes nothing but it. -/
theorem plot_frame (x y : Int) (px : Pixel) (p : Ppu) : ∃ fb, plot x y px p = { p with fb := fb } := by
  unfold plot
  split
  · exact ⟨_, rfl⟩
  · exact ⟨p.fb, rfl⟩

/-- A write of pixel (x, y) leaves every other pixel of the frame buffer alone. -/
theorem fbAt_plot_other {p : Ppu} {x y : Int} {px : Pixel} {x' y' : Nat} (hx : x' ≤ 255)
    (h : (x' : Int) ≠ x ∨ (y' : Int) ≠ y) : fbAt (plot x y px p) x' y' = fbAt p x' y' := by
  unfold plot
  split
  · simp only [fbAt]
    exact Memory.fbGet_fbPut_other (by omega)
  · rfl

/-- A write of a pixel inside the frame buffer reads back. -/
theorem fbAt_plot_self {p : Ppu} {x y : Nat} {px : Pixel} (hp : fbWf p = true) (hx : x ≤ 255) (hy : y ≤ 255) :
    fbAt (plot (x : Int) (y : Int) px p) x y = px := by
  simp only [fbWf, Bool.and_eq_true] at hp
  unfold plot
  rw [if_pos (by omega)]
  simp only [fbAt, Int.toNat_natCast]
  exact Memory.fbGet_fbPut_self hp.1

end Sys2Proof.Laws.Vram
end

