-- ==== Sys2Proof/Laws/Ports.lean ====
section
/-! SUPPORT. The PPU ports as arithmetic: the status byte, the VRAM pointer's two halves and its increment, and what each port
access is at every CPU address of $2000-$3FFF. -/

namespace Sys2Proof.Laws.Ports

open Sys2Proof.Machine Sys2Proof.Laws.Bus

theorem portOf_mod (a : Nat) : portOf a = portOf (a % 8) := by simp only [portOf, Nat.mod_mod]

theorem memRead_port {a : Word} (h : 0x2000 ≤ a.toNat) (h' : a.toNat ≤ 0x3FFF) (s : State) :
    memRead a s = portRead (portOf (a.toNat % 8)) s := by
  rw [← portOf_mod]
  simp only [memRead, busRegion_port s.ramMirror h h']

theorem memWrite_port {a : Word} (h : 0x2000 ≤ a.toNat) (h' : a.toNat ≤ 0x3FFF) (v : Byte) (s : State) :
    memWrite a v s = portWrite (portOf (a.toNat % 8)) v s := by
  rw [← portOf_mod]
  simp only [memWrite, busRegion_port s.ramMirror h h']

/-- Bits 7 to 5 of a PPUSTATUS read, whatever the draw in the others (48_ppu_ports.md R1203). -/
theorem statusByte_high : ∀ (a b c : Bool) (d : Byte),
    (statusByte a b c d).toNat / 32 = 4 * a.toNat + 2 * b.toNat + c.toNat := by
  decide +kernel

/-- The VRAM pointer after an access, as a sum modulo $4000 (48_ppu_ports.md R1211). -/
theorem vramAddr_add_inc (p : Ppu) :
    p.vramAddr + vramInc p = BitVec.ofNat 14 (p.vramAddr.toNat + if p.ctrl.getLsbD 2 then 32 else 1) := by
  apply BitVec.eq_of_toNat_eq
  rw [BitVec.toNat_add, BitVec.toNat_ofNat, vramInc, ctrlIncrement32]
  split <;> rfl

/-- The low half of a PPUADDR pair (48_ppu_ports.md R1208). -/
theorem addr_low (x : BitVec 14) (v : Byte) :
    (x &&& 0x3F00) ||| v.setWidth 14 = BitVec.ofNat 14 (256 * (x.toNat / 256) + v.toNat) := by
  have h : ((x &&& 0x3F00 : BitVec 14) ||| v.setWidth 14 : BitVec 14) = ((x >>> 8).setWidth 6 ++ v : BitVec 14) := by
    apply BitVec.eq_of_getLsbD_eq
    intro k hk
    rw [BitVec.getLsbD_append]
    simp only [BitVec.getLsbD_or, BitVec.getLsbD_and, BitVec.getLsbD_setWidth, BitVec.getLsbD_ushiftRight]
    interval_cases k <;> simp
  rw [h]
  apply BitVec.eq_of_toNat_eq
  rw [BitVec.toNat_append, ← Nat.shiftLeft_add_eq_or_of_lt v.isLt, Nat.shiftLeft_eq, BitVec.toNat_ofNat]
  simp only [BitVec.toNat_setWidth, BitVec.toNat_ushiftRight, Nat.shiftRight_eq_div_pow]
  have := x.isLt
  have := v.isLt
  omega

/-- The high half of a PPUADDR pair (48_ppu_ports.md R1208). -/
theorem addr_high (x : BitVec 14) (v : Byte) :
    ((v &&& 0x3F).setWidth 14 <<< 8) ||| (x &&& 0x00FF) = BitVec.ofNat 14 (256 * (v.toNat % 64) + x.toNat % 256) := by
  have h : ((v &&& 0x3F).setWidth 14 <<< 8 ||| (x &&& 0x00FF : BitVec 14) : BitVec 14) = (v.setWidth 6 ++ x.setWidth 8 : BitVec 14) := by
    apply BitVec.eq_of_getLsbD_eq
    intro k hk
    rw [BitVec.getLsbD_append]
    simp only [BitVec.getLsbD_or, BitVec.getLsbD_and, BitVec.getLsbD_setWidth, BitVec.getLsbD_shiftLeft]
    interval_cases k <;> simp
  rw [h]
  apply BitVec.eq_of_toNat_eq
  rw [BitVec.toNat_append, ← Nat.shiftLeft_add_eq_or_of_lt (x.setWidth 8).isLt, Nat.shiftLeft_eq, BitVec.toNat_ofNat]
  simp only [BitVec.toNat_setWidth]
  have := x.isLt
  have := v.isLt
  omega

/-- A PPUADDR write in closed form (48_ppu_ports.md R1208). -/
theorem writeAddr_eq (v : Byte) (p : Ppu) :
    writeAddr v p = { p with
      vramAddr := if p.w then BitVec.ofNat 14 (256 * (p.vramAddr.toNat / 256) + v.toNat)
        else BitVec.ofNat 14 (256 * (v.toNat % 64) + p.vramAddr.toNat % 256)
      w := !p.w } := by
  rw [writeAddr, addr_low, addr_high]
  split <;> rename_i h <;> simp only [h] <;> rfl

/-- A PPUCTRL write in closed form (48_ppu_ports.md R1201). -/
theorem writeCtrl_eq (v : Byte) (s : State) :
    writeCtrl v s = { s with
      ppu := { s.ppu with ctrl := v }
      nmiPending := s.nmiPending || (!s.ppu.ctrl.getLsbD 7 && v.getLsbD 7 && s.ppu.vblank) } := by
  have key : ∀ b : Bool, (if b then (s.setPpu { s.ppu with ctrl := v }).setNmi true else s.setPpu { s.ppu with ctrl := v }) =
      { s with ppu := { s.ppu with ctrl := v }, nmiPending := s.nmiPending || b } := by
    intro b
    cases b
    · rw [Bool.or_false]
      rfl
    · rw [Bool.or_true]
      rfl
  exact key _

/-- An address is reduced modulo $4000 before it is folded (20_memory.md R220). -/
theorem canon_ofNat (m : Mirroring) (a : Nat) : canon m (BitVec.ofNat 14 a).toNat = canon m a := by
  rw [BitVec.toNat_ofNat]
  have : a % 2 ^ 14 % 0x4000 = a % 0x4000 := by omega
  simp only [canon, this]

end Sys2Proof.Laws.Ports
end

