-- ==== Sys2Proof/Laws/Decode.lean ====
section
/-! SUPPORT. The byte-order helpers undo one another, and the opcode map has no two rows for one byte. -/

namespace Sys2Proof.Laws.Decode

theorem joinBytes_toNat (hi lo : Byte) : (joinBytes hi lo).toNat = 256 * hi.toNat + lo.toNat := by
  have h : joinBytes hi lo = (hi ++ lo : BitVec 16) := rfl
  rw [h, BitVec.toNat_append, ← Nat.shiftLeft_add_eq_or_of_lt lo.isLt, Nat.shiftLeft_eq]
  omega

theorem lowByte_toNat (w : Word) : (lowByte w).toNat = w.toNat % 256 := by
  simp only [lowByte, BitVec.toNat_setWidth]

theorem highByte_toNat (w : Word) : (highByte w).toNat = w.toNat / 256 := by
  have := w.isLt
  simp only [highByte, BitVec.toNat_setWidth, BitVec.toNat_ushiftRight, Nat.shiftRight_eq_div_pow]
  omega

@[simp] theorem joinBytes_high_low (w : Word) : joinBytes (highByte w) (lowByte w) = w := by
  apply BitVec.eq_of_toNat_eq
  rw [joinBytes_toNat, lowByte_toNat, highByte_toNat]
  omega

@[simp] theorem lowByte_joinBytes (hi lo : Byte) : lowByte (joinBytes hi lo) = lo := by
  apply BitVec.eq_of_toNat_eq
  rw [lowByte_toNat, joinBytes_toNat]
  omega

@[simp] theorem highByte_joinBytes (hi lo : Byte) : highByte (joinBytes hi lo) = hi := by
  have := lo.isLt
  apply BitVec.eq_of_toNat_eq
  rw [highByte_toNat, joinBytes_toNat]
  omega

/-- The opcode map has 151 rows (30_encoding.md R303). -/
theorem opcodeMap_length : opcodeMap.length = 151 := by decide +kernel

/-- No two rows of the opcode map have one opcode byte. -/
theorem opcodeMap_unambiguous : (opcodeMap.map Prod.fst).Pairwise (· < ·) := by decide +kernel

/-! ## The opcode map and the instructions -/

/-- What a row of the opcode map says of the instructions it gives: their opcode byte is the row's, their operand bytes are
the bytes the row's format reads, and they are well formed. -/
def GoodRow (op : Nat) (f : OpForm) : Prop :=
  match f with
  | .f1 i => i.opcode.toNat = op ∧ i.operand.bytes = [] ∧ i.wellFormed = true
  | .f2 f => ∀ n, (f n).opcode.toNat = op ∧ (f n).operand.bytes = [n] ∧ (f n).wellFormed = true
  | .f3 f => ∀ w, (f w).opcode.toNat = op ∧ (f w).operand.bytes = [lowByte w, highByte w] ∧ (f w).wellFormed = true

/-- Every row of the opcode map is a good row. -/
theorem goodRow_of_mem : ∀ r ∈ opcodeMap, GoodRow r.1 r.2 := by
  simp only [opcodeMap, mapRow0, mapRow1, mapRow2, mapRow3, mapRow4, mapRow5, mapRow6, mapRow7, mapRow8, mapRow9, mapRowA,
    mapRowB, mapRowC, mapRowD, mapRowE, mapRowF, List.cons_append, List.nil_append, List.forall_mem_cons]
  repeat' apply And.intro
  all_goals first
    | rfl
    | exact fun _ => ⟨rfl, rfl, rfl⟩
    | exact fun r hr => absurd hr (List.not_mem_nil)

theorem mem_of_findForm {op : Nat} {f : OpForm} {rows : List (Nat × OpForm)} (h : findForm op rows = some f) :
    (op, f) ∈ rows := by
  induction rows with
  | nil => cases h
  | cons r rows ih =>
    obtain ⟨k, g⟩ := r
    rw [findForm] at h
    split at h
    · rename_i hk
      cases h
      subst hk
      exact .head _
    · exact .tail _ (ih h)

/-- In a list of rows with rising opcode bytes, a row is found by its byte. -/
theorem findForm_of_mem {op : Nat} {f : OpForm} {rows : List (Nat × OpForm)}
    (hp : (rows.map Prod.fst).Pairwise (· < ·)) (h : (op, f) ∈ rows) : findForm op rows = some f := by
  induction rows with
  | nil => cases h
  | cons r rows ih =>
    obtain ⟨k, g⟩ := r
    simp only [List.map_cons, List.pairwise_cons] at hp
    rcases List.mem_cons.1 h with h | h
    · cases h
      simp [findForm]
    · have := hp.1 op (List.mem_map.2 ⟨_, h, rfl⟩)
      rw [findForm, if_neg (by omega), ih hp.2 h]

/-- What dispatch finds for an opcode byte is a good row of it (40_addressing.md R403). -/
theorem goodRow_of_opForm {op : Byte} {f : OpForm} (h : opForm op = some f) : GoodRow op.toNat f :=
  goodRow_of_mem _ (mem_of_findForm h)

/-- What an instruction's own row of the opcode map says of it. -/
def OwnRow (i : Instr) (rows : List (Nat × OpForm)) : Prop :=
  (i.operand.bytes = [] ∧ (i.opcode.toNat, .f1 i) ∈ rows) ∨
    (∃ f n, i = f n ∧ i.operand.bytes = [n] ∧ (i.opcode.toNat, .f2 f) ∈ rows) ∨
    (∃ f w, i = f w ∧ i.operand.bytes = [lowByte w, highByte w] ∧ (i.opcode.toNat, .f3 f) ∈ rows)

theorem OwnRow.mono {i : Instr} {rows rows' : List (Nat × OpForm)} (h : OwnRow i rows) (hs : rows ⊆ rows') :
    OwnRow i rows' := by
  rcases h with ⟨hb, h⟩ | ⟨f, n, hi, hb, h⟩ | ⟨f, w, hi, hb, h⟩
  · exact .inl ⟨hb, hs h⟩
  · exact .inr (.inl ⟨f, n, hi, hb, hs h⟩)
  · exact .inr (.inr ⟨f, w, hi, hb, hs h⟩)

theorem mapRow0_subset : mapRow0 ⊆ opcodeMap := fun _ h =>
  List.mem_append_left _ (List.mem_append_left _ (List.mem_append_left _ (List.mem_append_left _
    (List.mem_append_left _ (List.mem_append_left _ (List.mem_append_left _ (List.mem_append_left _
    (List.mem_append_left _ (List.mem_append_left _ (List.mem_append_left _ (List.mem_append_left _
    (List.mem_append_left _ (List.mem_append_left _ (List.mem_append_left _ (h)))))))))))))))
theorem mapRow1_subset : mapRow1 ⊆ opcodeMap := fun _ h =>
  List.mem_append_left _ (List.mem_append_left _ (List.mem_append_left _ (List.mem_append_left _
    (List.mem_append_left _ (List.mem_append_left _ (List.mem_append_left _ (List.mem_append_left _
    (List.mem_append_left _ (List.mem_append_left _ (List.mem_append_left _ (List.mem_append_left _
    (List.mem_append_left _ (List.mem_append_left _ (List.mem_append_right _ h))))))))))))))
theorem mapRow2_subset : mapRow2 ⊆ opcodeMap := fun _ h =>
  List.mem_append_left _ (List.mem_append_left _ (List.mem_append_left _ (List.mem_append_left _
    (List.mem_append_left _ (List.mem_append_left _ (List.mem_append_left _ (List.mem_append_left _
    (List.mem_append_left _ (List.mem_append_left _ (List.mem_append_left _ (List.mem_append_left _
    (List.mem_append_left _ (List.mem_append_right _ h)))))))))))))
theorem mapRow3_subset : mapRow3 ⊆ opcodeMap := fun _ h =>
  List.mem_append_left _ (List.mem_append_left _ (List.mem_append_left _ (List.mem_append_left _
    (List.mem_append_left _ (List.mem_append_left _ (List.mem_append_left _ (List.mem_append_left _
    (List.mem_append_left _ (List.mem_append_left _ (List.mem_append_left _ (List.mem_append_left _
    (List.mem_append_right _ h))))))))))))
theorem mapRow4_subset : mapRow4 ⊆ opcodeMap := fun _ h =>
  List.mem_append_left _ (List.mem_append_left _ (List.mem_append_left _ (List.mem_append_left _
    (List.mem_append_left _ (List.mem_append_left _ (List.mem_append_left _ (List.mem_append_left _
    (List.mem_append_left _ (List.mem_append_left _ (List.mem_append_left _ (List.mem_append_right _ h)))))))))))
theorem mapRow5_subset : mapRow5 ⊆ opcodeMap := fun _ h =>
  List.mem_append_left _ (List.mem_append_left _ (List.mem_append_left _ (List.mem_append_left _
    (List.mem_append_left _ (List.mem_append_left _ (List.mem_append_left _ (List.mem_append_left _
    (List.mem_append_left _ (List.mem_append_left _ (List.mem_append_right _ h))))))))))
theorem mapRow6_subset : mapRow6 ⊆ opcodeMap := fun _ h =>
  List.mem_append_left _ (List.mem_append_left _ (List.mem_append_left _ (List.mem_append_left _
    (List.mem_append_left _ (List.mem_append_left _ (List.mem_append_left _ (List.mem_append_left _
    (List.mem_append_left _ (List.mem_append_right _ h)))))))))
theorem mapRow7_subset : mapRow7 ⊆ opcodeMap := fun _ h =>
  List.mem_append_left _ (List.mem_append_left _ (List.mem_append_left _ (List.mem_append_left _
    (List.mem_append_left _ (List.mem_append_left _ (List.mem_append_left _ (List.mem_append_left _
    (List.mem_append_right _ h))))))))
theorem mapRow8_subset : mapRow8 ⊆ opcodeMap := fun _ h =>
  List.mem_append_left _ (List.mem_append_left _ (List.mem_append_left _ (List.mem_append_left _
    (List.mem_append_left _ (List.mem_append_left _ (List.mem_append_left _ (List.mem_append_right _ h)))))))
theorem mapRow9_subset : mapRow9 ⊆ opcodeMap := fun _ h =>
  List.mem_append_left _ (List.mem_append_left _ (List.mem_append_left _ (List.mem_append_left _
    (List.mem_append_left _ (List.mem_append_left _ (List.mem_append_right _ h))))))
theorem mapRowA_subset : mapRowA ⊆ opcodeMap := fun _ h =>
  List.mem_append_left _ (List.mem_append_left _ (List.mem_append_left _ (List.mem_append_left _
    (List.mem_append_left _ (List.mem_append_right _ h)))))
theorem mapRowB_subset : mapRowB ⊆ opcodeMap := fun _ h =>
  List.mem_append_left _ (List.mem_append_left _ (List.mem_append_left _ (List.mem_append_left _
    (List.mem_append_right _ h))))
theorem mapRowC_subset : mapRowC ⊆ opcodeMap := fun _ h =>
  List.mem_append_left _ (List.mem_append_left _ (List.mem_append_left _ (List.mem_append_right _ h)))
theorem mapRowD_subset : mapRowD ⊆ opcodeMap := fun _ h =>
  List.mem_append_left _ (List.mem_append_left _ (List.mem_append_right _ h))
theorem mapRowE_subset : mapRowE ⊆ opcodeMap := fun _ h =>
  List.mem_append_left _ (List.mem_append_right _ h)
theorem mapRowF_subset : mapRowF ⊆ opcodeMap := fun _ h =>
  List.mem_append_right _ h

/-- Every instruction has its own row in the opcode map, in the format of its operand bytes. -/
theorem ownRow (i : Instr) : OwnRow i opcodeMap := by
  cases i with
  | brk => exact OwnRow.mono (.inl ⟨rfl, .head _⟩) mapRow0_subset
  | oraIzx n => exact OwnRow.mono (.inr (.inl ⟨_, n, rfl, rfl, .tail _ (.head _)⟩)) mapRow0_subset
  | oraZp n => exact OwnRow.mono (.inr (.inl ⟨_, n, rfl, rfl, .tail _ (.tail _ (.head _))⟩)) mapRow0_subset
  | aslZp n => exact OwnRow.mono (.inr (.inl ⟨_, n, rfl, rfl, .tail _ (.tail _ (.tail _ (.head _)))⟩)) mapRow0_subset
  | php => exact OwnRow.mono (.inl ⟨rfl, .tail _ (.tail _ (.tail _ (.tail _ (.head _))))⟩) mapRow0_subset
  | oraImm n => exact OwnRow.mono (.inr (.inl ⟨_, n, rfl, rfl, .tail _ (.tail _ (.tail _ (.tail _ (.tail _ (.head _)))))⟩)) mapRow0_subset
  | aslAcc => exact OwnRow.mono (.inl ⟨rfl, .tail _ (.tail _ (.tail _ (.tail _ (.tail _ (.tail _ (.head _))))))⟩) mapRow0_subset
  | oraAbs w => exact OwnRow.mono (.inr (.inr ⟨_, w, rfl, rfl, .tail _ (.tail _ (.tail _ (.tail _ (.tail _ (.tail _ (.tail _ (.head _)))))))⟩)) mapRow0_subset
  | aslAbs w => exact OwnRow.mono (.inr (.inr ⟨_, w, rfl, rfl, .tail _ (.tail _ (.tail _ (.tail _ (.tail _ (.tail _ (.tail _ (.tail _ (.head _))))))))⟩)) mapRow0_subset
  | bpl n => exact OwnRow.mono (.inr (.inl ⟨_, n, rfl, rfl, .head _⟩)) mapRow1_subset
  | oraIzy n => exact OwnRow.mono (.inr (.inl ⟨_, n, rfl, rfl, .tail _ (.head _)⟩)) mapRow1_subset
  | oraZpx n => exact OwnRow.mono (.inr (.inl ⟨_, n, rfl, rfl, .tail _ (.tail _ (.head _))⟩)) mapRow1_subset
  | aslZpx n => exact OwnRow.mono (.inr (.inl ⟨_, n, rfl, rfl, .tail _ (.tail _ (.tail _ (.head _)))⟩)) mapRow1_subset
  | clc => exact OwnRow.mono (.inl ⟨rfl, .tail _ (.tail _ (.tail _ (.tail _ (.head _))))⟩) mapRow1_subset
  | oraAby w => exact OwnRow.mono (.inr (.inr ⟨_, w, rfl, rfl, .tail _ (.tail _ (.tail _ (.tail _ (.tail _ (.head _)))))⟩)) mapRow1_subset
  | oraAbx w => exact OwnRow.mono (.inr (.inr ⟨_, w, rfl, rfl, .tail _ (.tail _ (.tail _ (.tail _ (.tail _ (.tail _ (.head _))))))⟩)) mapRow1_subset
  | aslAbx w => exact OwnRow.mono (.inr (.inr ⟨_, w, rfl, rfl, .tail _ (.tail _ (.tail _ (.tail _ (.tail _ (.tail _ (.tail _ (.head _)))))))⟩)) mapRow1_subset
  | jsr w => exact OwnRow.mono (.inr (.inr ⟨_, w, rfl, rfl, .head _⟩)) mapRow2_subset
  | andIzx n => exact OwnRow.mono (.inr (.inl ⟨_, n, rfl, rfl, .tail _ (.head _)⟩)) mapRow2_subset
  | bitZp n => exact OwnRow.mono (.inr (.inl ⟨_, n, rfl, rfl, .tail _ (.tail _ (.head _))⟩)) mapRow2_subset
  | andZp n => exact OwnRow.mono (.inr (.inl ⟨_, n, rfl, rfl, .tail _ (.tail _ (.tail _ (.head _)))⟩)) mapRow2_subset
  | rolZp n => exact OwnRow.mono (.inr (.inl ⟨_, n, rfl, rfl, .tail _ (.tail _ (.tail _ (.tail _ (.head _))))⟩)) mapRow2_subset
  | plp => exact OwnRow.mono (.inl ⟨rfl, .tail _ (.tail _ (.tail _ (.tail _ (.tail _ (.head _)))))⟩) mapRow2_subset
  | andImm n => exact OwnRow.mono (.inr (.inl ⟨_, n, rfl, rfl, .tail _ (.tail _ (.tail _ (.tail _ (.tail _ (.tail _ (.head _))))))⟩)) mapRow2_subset
  | rolAcc => exact OwnRow.mono (.inl ⟨rfl, .tail _ (.tail _ (.tail _ (.tail _ (.tail _ (.tail _ (.tail _ (.head _)))))))⟩) mapRow2_subset
  | bitAbs w => exact OwnRow.mono (.inr (.inr ⟨_, w, rfl, rfl, .tail _ (.tail _ (.tail _ (.tail _ (.tail _ (.tail _ (.tail _ (.tail _ (.head _))))))))⟩)) mapRow2_subset
  | andAbs w => exact OwnRow.mono (.inr (.inr ⟨_, w, rfl, rfl, .tail _ (.tail _ (.tail _ (.tail _ (.tail _ (.tail _ (.tail _ (.tail _ (.tail _ (.head _)))))))))⟩)) mapRow2_subset
  | rolAbs w => exact OwnRow.mono (.inr (.inr ⟨_, w, rfl, rfl, .tail _ (.tail _ (.tail _ (.tail _ (.tail _ (.tail _ (.tail _ (.tail _ (.tail _ (.tail _ (.head _))))))))))⟩)) mapRow2_subset
  | bmi n => exact OwnRow.mono (.inr (.inl ⟨_, n, rfl, rfl, .head _⟩)) mapRow3_subset
  | andIzy n => exact OwnRow.mono (.inr (.inl ⟨_, n, rfl, rfl, .tail _ (.head _)⟩)) mapRow3_subset
  | andZpx n => exact OwnRow.mono (.inr (.inl ⟨_, n, rfl, rfl, .tail _ (.tail _ (.head _))⟩)) mapRow3_subset
  | rolZpx n => exact OwnRow.mono (.inr (.inl ⟨_, n, rfl, rfl, .tail _ (.tail _ (.tail _ (.head _)))⟩)) mapRow3_subset
  | sec => exact OwnRow.mono (.inl ⟨rfl, .tail _ (.tail _ (.tail _ (.tail _ (.head _))))⟩) mapRow3_subset
  | andAby w => exact OwnRow.mono (.inr (.inr ⟨_, w, rfl, rfl, .tail _ (.tail _ (.tail _ (.tail _ (.tail _ (.head _)))))⟩)) mapRow3_subset
  | andAbx w => exact OwnRow.mono (.inr (.inr ⟨_, w, rfl, rfl, .tail _ (.tail _ (.tail _ (.tail _ (.tail _ (.tail _ (.head _))))))⟩)) mapRow3_subset
  | rolAbx w => exact OwnRow.mono (.inr (.inr ⟨_, w, rfl, rfl, .tail _ (.tail _ (.tail _ (.tail _ (.tail _ (.tail _ (.tail _ (.head _)))))))⟩)) mapRow3_subset
  | rti => exact OwnRow.mono (.inl ⟨rfl, .head _⟩) mapRow4_subset
  | eorIzx n => exact OwnRow.mono (.inr (.inl ⟨_, n, rfl, rfl, .tail _ (.head _)⟩)) mapRow4_subset
  | eorZp n => exact OwnRow.mono (.inr (.inl ⟨_, n, rfl, rfl, .tail _ (.tail _ (.head _))⟩)) mapRow4_subset
  | lsrZp n => exact OwnRow.mono (.inr (.inl ⟨_, n, rfl, rfl, .tail _ (.tail _ (.tail _ (.head _)))⟩)) mapRow4_subset
  | pha => exact OwnRow.mono (.inl ⟨rfl, .tail _ (.tail _ (.tail _ (.tail _ (.head _))))⟩) mapRow4_subset
  | eorImm n => exact OwnRow.mono (.inr (.inl ⟨_, n, rfl, rfl, .tail _ (.tail _ (.tail _ (.tail _ (.tail _ (.head _)))))⟩)) mapRow4_subset
  | lsrAcc => exact OwnRow.mono (.inl ⟨rfl, .tail _ (.tail _ (.tail _ (.tail _ (.tail _ (.tail _ (.head _))))))⟩) mapRow4_subset
  | jmpAbs w => exact OwnRow.mono (.inr (.inr ⟨_, w, rfl, rfl, .tail _ (.tail _ (.tail _ (.tail _ (.tail _ (.tail _ (.tail _ (.head _)))))))⟩)) mapRow4_subset
  | eorAbs w => exact OwnRow.mono (.inr (.inr ⟨_, w, rfl, rfl, .tail _ (.tail _ (.tail _ (.tail _ (.tail _ (.tail _ (.tail _ (.tail _ (.head _))))))))⟩)) mapRow4_subset
  | lsrAbs w => exact OwnRow.mono (.inr (.inr ⟨_, w, rfl, rfl, .tail _ (.tail _ (.tail _ (.tail _ (.tail _ (.tail _ (.tail _ (.tail _ (.tail _ (.head _)))))))))⟩)) mapRow4_subset
  | bvc n => exact OwnRow.mono (.inr (.inl ⟨_, n, rfl, rfl, .head _⟩)) mapRow5_subset
  | eorIzy n => exact OwnRow.mono (.inr (.inl ⟨_, n, rfl, rfl, .tail _ (.head _)⟩)) mapRow5_subset
  | eorZpx n => exact OwnRow.mono (.inr (.inl ⟨_, n, rfl, rfl, .tail _ (.tail _ (.head _))⟩)) mapRow5_subset
  | lsrZpx n => exact OwnRow.mono (.inr (.inl ⟨_, n, rfl, rfl, .tail _ (.tail _ (.tail _ (.head _)))⟩)) mapRow5_subset
  | cli => exact OwnRow.mono (.inl ⟨rfl, .tail _ (.tail _ (.tail _ (.tail _ (.head _))))⟩) mapRow5_subset
  | eorAby w => exact OwnRow.mono (.inr (.inr ⟨_, w, rfl, rfl, .tail _ (.tail _ (.tail _ (.tail _ (.tail _ (.head _)))))⟩)) mapRow5_subset
  | eorAbx w => exact OwnRow.mono (.inr (.inr ⟨_, w, rfl, rfl, .tail _ (.tail _ (.tail _ (.tail _ (.tail _ (.tail _ (.head _))))))⟩)) mapRow5_subset
  | lsrAbx w => exact OwnRow.mono (.inr (.inr ⟨_, w, rfl, rfl, .tail _ (.tail _ (.tail _ (.tail _ (.tail _ (.tail _ (.tail _ (.head _)))))))⟩)) mapRow5_subset
  | rts => exact OwnRow.mono (.inl ⟨rfl, .head _⟩) mapRow6_subset
  | adcIzx n => exact OwnRow.mono (.inr (.inl ⟨_, n, rfl, rfl, .tail _ (.head _)⟩)) mapRow6_subset
  | adcZp n => exact OwnRow.mono (.inr (.inl ⟨_, n, rfl, rfl, .tail _ (.tail _ (.head _))⟩)) mapRow6_subset
  | rorZp n => exact OwnRow.mono (.inr (.inl ⟨_, n, rfl, rfl, .tail _ (.tail _ (.tail _ (.head _)))⟩)) mapRow6_subset
  | pla => exact OwnRow.mono (.inl ⟨rfl, .tail _ (.tail _ (.tail _ (.tail _ (.head _))))⟩) mapRow6_subset
  | adcImm n => exact OwnRow.mono (.inr (.inl ⟨_, n, rfl, rfl, .tail _ (.tail _ (.tail _ (.tail _ (.tail _ (.head _)))))⟩)) mapRow6_subset
  | rorAcc => exact OwnRow.mono (.inl ⟨rfl, .tail _ (.tail _ (.tail _ (.tail _ (.tail _ (.tail _ (.head _))))))⟩) mapRow6_subset
  | jmpInd w => exact OwnRow.mono (.inr (.inr ⟨_, w, rfl, rfl, .tail _ (.tail _ (.tail _ (.tail _ (.tail _ (.tail _ (.tail _ (.head _)))))))⟩)) mapRow6_subset
  | adcAbs w => exact OwnRow.mono (.inr (.inr ⟨_, w, rfl, rfl, .tail _ (.tail _ (.tail _ (.tail _ (.tail _ (.tail _ (.tail _ (.tail _ (.head _))))))))⟩)) mapRow6_subset
  | rorAbs w => exact OwnRow.mono (.inr (.inr ⟨_, w, rfl, rfl, .tail _ (.tail _ (.tail _ (.tail _ (.tail _ (.tail _ (.tail _ (.tail _ (.tail _ (.head _)))))))))⟩)) mapRow6_subset
  | bvs n => exact OwnRow.mono (.inr (.inl ⟨_, n, rfl, rfl, .head _⟩)) mapRow7_subset
  | adcIzy n => exact OwnRow.mono (.inr (.inl ⟨_, n, rfl, rfl, .tail _ (.head _)⟩)) mapRow7_subset
  | adcZpx n => exact OwnRow.mono (.inr (.inl ⟨_, n, rfl, rfl, .tail _ (.tail _ (.head _))⟩)) mapRow7_subset
  | rorZpx n => exact OwnRow.mono (.inr (.inl ⟨_, n, rfl, rfl, .tail _ (.tail _ (.tail _ (.head _)))⟩)) mapRow7_subset
  | sei => exact OwnRow.mono (.inl ⟨rfl, .tail _ (.tail _ (.tail _ (.tail _ (.head _))))⟩) mapRow7_subset
  | adcAby w => exact OwnRow.mono (.inr (.inr ⟨_, w, rfl, rfl, .tail _ (.tail _ (.tail _ (.tail _ (.tail _ (.head _)))))⟩)) mapRow7_subset
  | adcAbx w => exact OwnRow.mono (.inr (.inr ⟨_, w, rfl, rfl, .tail _ (.tail _ (.tail _ (.tail _ (.tail _ (.tail _ (.head _))))))⟩)) mapRow7_subset
  | rorAbx w => exact OwnRow.mono (.inr (.inr ⟨_, w, rfl, rfl, .tail _ (.tail _ (.tail _ (.tail _ (.tail _ (.tail _ (.tail _ (.head _)))))))⟩)) mapRow7_subset
  | staIzx n => exact OwnRow.mono (.inr (.inl ⟨_, n, rfl, rfl, .head _⟩)) mapRow8_subset
  | styZp n => exact OwnRow.mono (.inr (.inl ⟨_, n, rfl, rfl, .tail _ (.head _)⟩)) mapRow8_subset
  | staZp n => exact OwnRow.mono (.inr (.inl ⟨_, n, rfl, rfl, .tail _ (.tail _ (.head _))⟩)) mapRow8_subset
  | stxZp n => exact OwnRow.mono (.inr (.inl ⟨_, n, rfl, rfl, .tail _ (.tail _ (.tail _ (.head _)))⟩)) mapRow8_subset
  | dey => exact OwnRow.mono (.inl ⟨rfl, .tail _ (.tail _ (.tail _ (.tail _ (.head _))))⟩) mapRow8_subset
  | txa => exact OwnRow.mono (.inl ⟨rfl, .tail _ (.tail _ (.tail _ (.tail _ (.tail _ (.head _)))))⟩) mapRow8_subset
  | styAbs w => exact OwnRow.mono (.inr (.inr ⟨_, w, rfl, rfl, .tail _ (.tail _ (.tail _ (.tail _ (.tail _ (.tail _ (.head _))))))⟩)) mapRow8_subset
  | staAbs w => exact OwnRow.mono (.inr (.inr ⟨_, w, rfl, rfl, .tail _ (.tail _ (.tail _ (.tail _ (.tail _ (.tail _ (.tail _ (.head _)))))))⟩)) mapRow8_subset
  | stxAbs w => exact OwnRow.mono (.inr (.inr ⟨_, w, rfl, rfl, .tail _ (.tail _ (.tail _ (.tail _ (.tail _ (.tail _ (.tail _ (.tail _ (.head _))))))))⟩)) mapRow8_subset
  | bcc n => exact OwnRow.mono (.inr (.inl ⟨_, n, rfl, rfl, .head _⟩)) mapRow9_subset
  | staIzy n => exact OwnRow.mono (.inr (.inl ⟨_, n, rfl, rfl, .tail _ (.head _)⟩)) mapRow9_subset
  | styZpx n => exact OwnRow.mono (.inr (.inl ⟨_, n, rfl, rfl, .tail _ (.tail _ (.head _))⟩)) mapRow9_subset
  | staZpx n => exact OwnRow.mono (.inr (.inl ⟨_, n, rfl, rfl, .tail _ (.tail _ (.tail _ (.head _)))⟩)) mapRow9_subset
  | stxZpy n => exact OwnRow.mono (.inr (.inl ⟨_, n, rfl, rfl, .tail _ (.tail _ (.tail _ (.tail _ (.head _))))⟩)) mapRow9_subset
  | tya => exact OwnRow.mono (.inl ⟨rfl, .tail _ (.tail _ (.tail _ (.tail _ (.tail _ (.head _)))))⟩) mapRow9_subset
  | staAby w => exact OwnRow.mono (.inr (.inr ⟨_, w, rfl, rfl, .tail _ (.tail _ (.tail _ (.tail _ (.tail _ (.tail _ (.head _))))))⟩)) mapRow9_subset
  | txs => exact OwnRow.mono (.inl ⟨rfl, .tail _ (.tail _ (.tail _ (.tail _ (.tail _ (.tail _ (.tail _ (.head _)))))))⟩) mapRow9_subset
  | staAbx w => exact OwnRow.mono (.inr (.inr ⟨_, w, rfl, rfl, .tail _ (.tail _ (.tail _ (.tail _ (.tail _ (.tail _ (.tail _ (.tail _ (.head _))))))))⟩)) mapRow9_subset
  | ldyImm n => exact OwnRow.mono (.inr (.inl ⟨_, n, rfl, rfl, .head _⟩)) mapRowA_subset
  | ldaIzx n => exact OwnRow.mono (.inr (.inl ⟨_, n, rfl, rfl, .tail _ (.head _)⟩)) mapRowA_subset
  | ldxImm n => exact OwnRow.mono (.inr (.inl ⟨_, n, rfl, rfl, .tail _ (.tail _ (.head _))⟩)) mapRowA_subset
  | ldyZp n => exact OwnRow.mono (.inr (.inl ⟨_, n, rfl, rfl, .tail _ (.tail _ (.tail _ (.head _)))⟩)) mapRowA_subset
  | ldaZp n => exact OwnRow.mono (.inr (.inl ⟨_, n, rfl, rfl, .tail _ (.tail _ (.tail _ (.tail _ (.head _))))⟩)) mapRowA_subset
  | ldxZp n => exact OwnRow.mono (.inr (.inl ⟨_, n, rfl, rfl, .tail _ (.tail _ (.tail _ (.tail _ (.tail _ (.head _)))))⟩)) mapRowA_subset
  | tay => exact OwnRow.mono (.inl ⟨rfl, .tail _ (.tail _ (.tail _ (.tail _ (.tail _ (.tail _ (.head _))))))⟩) mapRowA_subset
  | ldaImm n => exact OwnRow.mono (.inr (.inl ⟨_, n, rfl, rfl, .tail _ (.tail _ (.tail _ (.tail _ (.tail _ (.tail _ (.tail _ (.head _)))))))⟩)) mapRowA_subset
  | tax => exact OwnRow.mono (.inl ⟨rfl, .tail _ (.tail _ (.tail _ (.tail _ (.tail _ (.tail _ (.tail _ (.tail _ (.head _))))))))⟩) mapRowA_subset
  | ldyAbs w => exact OwnRow.mono (.inr (.inr ⟨_, w, rfl, rfl, .tail _ (.tail _ (.tail _ (.tail _ (.tail _ (.tail _ (.tail _ (.tail _ (.tail _ (.head _)))))))))⟩)) mapRowA_subset
  | ldaAbs w => exact OwnRow.mono (.inr (.inr ⟨_, w, rfl, rfl, .tail _ (.tail _ (.tail _ (.tail _ (.tail _ (.tail _ (.tail _ (.tail _ (.tail _ (.tail _ (.head _))))))))))⟩)) mapRowA_subset
  | ldxAbs w => exact OwnRow.mono (.inr (.inr ⟨_, w, rfl, rfl, .tail _ (.tail _ (.tail _ (.tail _ (.tail _ (.tail _ (.tail _ (.tail _ (.tail _ (.tail _ (.tail _ (.head _)))))))))))⟩)) mapRowA_subset
  | bcs n => exact OwnRow.mono (.inr (.inl ⟨_, n, rfl, rfl, .head _⟩)) mapRowB_subset
  | ldaIzy n => exact OwnRow.mono (.inr (.inl ⟨_, n, rfl, rfl, .tail _ (.head _)⟩)) mapRowB_subset
  | ldyZpx n => exact OwnRow.mono (.inr (.inl ⟨_, n, rfl, rfl, .tail _ (.tail _ (.head _))⟩)) mapRowB_subset
  | ldaZpx n => exact OwnRow.mono (.inr (.inl ⟨_, n, rfl, rfl, .tail _ (.tail _ (.tail _ (.head _)))⟩)) mapRowB_subset
  | ldxZpy n => exact OwnRow.mono (.inr (.inl ⟨_, n, rfl, rfl, .tail _ (.tail _ (.tail _ (.tail _ (.head _))))⟩)) mapRowB_subset
  | clv => exact OwnRow.mono (.inl ⟨rfl, .tail _ (.tail _ (.tail _ (.tail _ (.tail _ (.head _)))))⟩) mapRowB_subset
  | ldaAby w => exact OwnRow.mono (.inr (.inr ⟨_, w, rfl, rfl, .tail _ (.tail _ (.tail _ (.tail _ (.tail _ (.tail _ (.head _))))))⟩)) mapRowB_subset
  | tsx => exact OwnRow.mono (.inl ⟨rfl, .tail _ (.tail _ (.tail _ (.tail _ (.tail _ (.tail _ (.tail _ (.head _)))))))⟩) mapRowB_subset
  | ldyAbx w => exact OwnRow.mono (.inr (.inr ⟨_, w, rfl, rfl, .tail _ (.tail _ (.tail _ (.tail _ (.tail _ (.tail _ (.tail _ (.tail _ (.head _))))))))⟩)) mapRowB_subset
  | ldaAbx w => exact OwnRow.mono (.inr (.inr ⟨_, w, rfl, rfl, .tail _ (.tail _ (.tail _ (.tail _ (.tail _ (.tail _ (.tail _ (.tail _ (.tail _ (.head _)))))))))⟩)) mapRowB_subset
  | ldxAby w => exact OwnRow.mono (.inr (.inr ⟨_, w, rfl, rfl, .tail _ (.tail _ (.tail _ (.tail _ (.tail _ (.tail _ (.tail _ (.tail _ (.tail _ (.tail _ (.head _))))))))))⟩)) mapRowB_subset
  | cpyImm n => exact OwnRow.mono (.inr (.inl ⟨_, n, rfl, rfl, .head _⟩)) mapRowC_subset
  | cmpIzx n => exact OwnRow.mono (.inr (.inl ⟨_, n, rfl, rfl, .tail _ (.head _)⟩)) mapRowC_subset
  | cpyZp n => exact OwnRow.mono (.inr (.inl ⟨_, n, rfl, rfl, .tail _ (.tail _ (.head _))⟩)) mapRowC_subset
  | cmpZp n => exact OwnRow.mono (.inr (.inl ⟨_, n, rfl, rfl, .tail _ (.tail _ (.tail _ (.head _)))⟩)) mapRowC_subset
  | decZp n => exact OwnRow.mono (.inr (.inl ⟨_, n, rfl, rfl, .tail _ (.tail _ (.tail _ (.tail _ (.head _))))⟩)) mapRowC_subset
  | iny => exact OwnRow.mono (.inl ⟨rfl, .tail _ (.tail _ (.tail _ (.tail _ (.tail _ (.head _)))))⟩) mapRowC_subset
  | cmpImm n => exact OwnRow.mono (.inr (.inl ⟨_, n, rfl, rfl, .tail _ (.tail _ (.tail _ (.tail _ (.tail _ (.tail _ (.head _))))))⟩)) mapRowC_subset
  | dex => exact OwnRow.mono (.inl ⟨rfl, .tail _ (.tail _ (.tail _ (.tail _ (.tail _ (.tail _ (.tail _ (.head _)))))))⟩) mapRowC_subset
  | cpyAbs w => exact OwnRow.mono (.inr (.inr ⟨_, w, rfl, rfl, .tail _ (.tail _ (.tail _ (.tail _ (.tail _ (.tail _ (.tail _ (.tail _ (.head _))))))))⟩)) mapRowC_subset
  | cmpAbs w => exact OwnRow.mono (.inr (.inr ⟨_, w, rfl, rfl, .tail _ (.tail _ (.tail _ (.tail _ (.tail _ (.tail _ (.tail _ (.tail _ (.tail _ (.head _)))))))))⟩)) mapRowC_subset
  | decAbs w => exact OwnRow.mono (.inr (.inr ⟨_, w, rfl, rfl, .tail _ (.tail _ (.tail _ (.tail _ (.tail _ (.tail _ (.tail _ (.tail _ (.tail _ (.tail _ (.head _))))))))))⟩)) mapRowC_subset
  | bne n => exact OwnRow.mono (.inr (.inl ⟨_, n, rfl, rfl, .head _⟩)) mapRowD_subset
  | cmpIzy n => exact OwnRow.mono (.inr (.inl ⟨_, n, rfl, rfl, .tail _ (.head _)⟩)) mapRowD_subset
  | cmpZpx n => exact OwnRow.mono (.inr (.inl ⟨_, n, rfl, rfl, .tail _ (.tail _ (.head _))⟩)) mapRowD_subset
  | decZpx n => exact OwnRow.mono (.inr (.inl ⟨_, n, rfl, rfl, .tail _ (.tail _ (.tail _ (.head _)))⟩)) mapRowD_subset
  | cld => exact OwnRow.mono (.inl ⟨rfl, .tail _ (.tail _ (.tail _ (.tail _ (.head _))))⟩) mapRowD_subset
  | cmpAby w => exact OwnRow.mono (.inr (.inr ⟨_, w, rfl, rfl, .tail _ (.tail _ (.tail _ (.tail _ (.tail _ (.head _)))))⟩)) mapRowD_subset
  | cmpAbx w => exact OwnRow.mono (.inr (.inr ⟨_, w, rfl, rfl, .tail _ (.tail _ (.tail _ (.tail _ (.tail _ (.tail _ (.head _))))))⟩)) mapRowD_subset
  | decAbx w => exact OwnRow.mono (.inr (.inr ⟨_, w, rfl, rfl, .tail _ (.tail _ (.tail _ (.tail _ (.tail _ (.tail _ (.tail _ (.head _)))))))⟩)) mapRowD_subset
  | cpxImm n => exact OwnRow.mono (.inr (.inl ⟨_, n, rfl, rfl, .head _⟩)) mapRowE_subset
  | sbcIzx n => exact OwnRow.mono (.inr (.inl ⟨_, n, rfl, rfl, .tail _ (.head _)⟩)) mapRowE_subset
  | cpxZp n => exact OwnRow.mono (.inr (.inl ⟨_, n, rfl, rfl, .tail _ (.tail _ (.head _))⟩)) mapRowE_subset
  | sbcZp n => exact OwnRow.mono (.inr (.inl ⟨_, n, rfl, rfl, .tail _ (.tail _ (.tail _ (.head _)))⟩)) mapRowE_subset
  | incZp n => exact OwnRow.mono (.inr (.inl ⟨_, n, rfl, rfl, .tail _ (.tail _ (.tail _ (.tail _ (.head _))))⟩)) mapRowE_subset
  | inx => exact OwnRow.mono (.inl ⟨rfl, .tail _ (.tail _ (.tail _ (.tail _ (.tail _ (.head _)))))⟩) mapRowE_subset
  | sbcImm n => exact OwnRow.mono (.inr (.inl ⟨_, n, rfl, rfl, .tail _ (.tail _ (.tail _ (.tail _ (.tail _ (.tail _ (.head _))))))⟩)) mapRowE_subset
  | nop => exact OwnRow.mono (.inl ⟨rfl, .tail _ (.tail _ (.tail _ (.tail _ (.tail _ (.tail _ (.tail _ (.head _)))))))⟩) mapRowE_subset
  | cpxAbs w => exact OwnRow.mono (.inr (.inr ⟨_, w, rfl, rfl, .tail _ (.tail _ (.tail _ (.tail _ (.tail _ (.tail _ (.tail _ (.tail _ (.head _))))))))⟩)) mapRowE_subset
  | sbcAbs w => exact OwnRow.mono (.inr (.inr ⟨_, w, rfl, rfl, .tail _ (.tail _ (.tail _ (.tail _ (.tail _ (.tail _ (.tail _ (.tail _ (.tail _ (.head _)))))))))⟩)) mapRowE_subset
  | incAbs w => exact OwnRow.mono (.inr (.inr ⟨_, w, rfl, rfl, .tail _ (.tail _ (.tail _ (.tail _ (.tail _ (.tail _ (.tail _ (.tail _ (.tail _ (.tail _ (.head _))))))))))⟩)) mapRowE_subset
  | beq n => exact OwnRow.mono (.inr (.inl ⟨_, n, rfl, rfl, .head _⟩)) mapRowF_subset
  | sbcIzy n => exact OwnRow.mono (.inr (.inl ⟨_, n, rfl, rfl, .tail _ (.head _)⟩)) mapRowF_subset
  | sbcZpx n => exact OwnRow.mono (.inr (.inl ⟨_, n, rfl, rfl, .tail _ (.tail _ (.head _))⟩)) mapRowF_subset
  | incZpx n => exact OwnRow.mono (.inr (.inl ⟨_, n, rfl, rfl, .tail _ (.tail _ (.tail _ (.head _)))⟩)) mapRowF_subset
  | sed => exact OwnRow.mono (.inl ⟨rfl, .tail _ (.tail _ (.tail _ (.tail _ (.head _))))⟩) mapRowF_subset
  | sbcAby w => exact OwnRow.mono (.inr (.inr ⟨_, w, rfl, rfl, .tail _ (.tail _ (.tail _ (.tail _ (.tail _ (.head _)))))⟩)) mapRowF_subset
  | sbcAbx w => exact OwnRow.mono (.inr (.inr ⟨_, w, rfl, rfl, .tail _ (.tail _ (.tail _ (.tail _ (.tail _ (.tail _ (.head _))))))⟩)) mapRowF_subset
  | incAbx w => exact OwnRow.mono (.inr (.inr ⟨_, w, rfl, rfl, .tail _ (.tail _ (.tail _ (.tail _ (.tail _ (.tail _ (.tail _ (.head _)))))))⟩)) mapRowF_subset

/-- Dispatch finds every instruction's own row by its opcode byte, in the format of its operand bytes. -/
theorem opForm_opcode (i : Instr) :
    (i.operand.bytes = [] ∧ opForm i.opcode = some (.f1 i)) ∨
    (∃ f n, i = f n ∧ i.operand.bytes = [n] ∧ opForm i.opcode = some (.f2 f)) ∨
    (∃ f w, i = f w ∧ i.operand.bytes = [lowByte w, highByte w] ∧ opForm i.opcode = some (.f3 f)) := by
  rcases ownRow i with ⟨hb, h⟩ | ⟨f, n, hi, hb, h⟩ | ⟨f, w, hi, hb, h⟩
  · exact .inl ⟨hb, findForm_of_mem opcodeMap_unambiguous h⟩
  · exact .inr (.inl ⟨f, n, hi, hb, findForm_of_mem opcodeMap_unambiguous h⟩)
  · exact .inr (.inr ⟨f, w, hi, hb, findForm_of_mem opcodeMap_unambiguous h⟩)

/-- A byte has no row exactly when it is one of the undefined bytes (30_encoding.md R304). -/
theorem opForm_isNone : ∀ op : Byte, (opForm op).isNone = Safety.undefinedBytes.contains op := by decide +kernel

theorem opForm_eq_none (op : Byte) : opForm op = none ↔ op ∈ Safety.undefinedBytes := by
  rw [← Option.isNone_iff_eq_none, opForm_isNone]
  simp

/-! ## The rows of one mnemonic -/

/-- The mnemonic and the mode of a row of the opcode map. -/
def formHead : OpForm → Mnemonic × Mode
  | .f1 i => (i.mnemonic, i.operand.mode)
  | .f2 f => ((f 0).mnemonic, (f 0).operand.mode)
  | .f3 f => ((f 0).mnemonic, (f 0).operand.mode)

/-- The mnemonic and the mode of a row do not depend on the operand. -/
def UniformRow (f : OpForm) : Prop :=
  match f with
  | .f1 _ => True
  | .f2 g => ∀ n, ((g n).mnemonic, (g n).operand.mode) = formHead f
  | .f3 g => ∀ w, ((g w).mnemonic, (g w).operand.mode) = formHead f

theorem uniformRow_of_mem : ∀ r ∈ opcodeMap, UniformRow r.2 := by
  simp only [opcodeMap, mapRow0, mapRow1, mapRow2, mapRow3, mapRow4, mapRow5, mapRow6, mapRow7, mapRow8, mapRow9, mapRowA,
    mapRowB, mapRowC, mapRowD, mapRowE, mapRowF, List.cons_append, List.nil_append, List.forall_mem_cons]
  repeat' apply And.intro
  all_goals first
    | trivial
    | exact fun _ => rfl
    | exact fun r hr => absurd hr (List.not_mem_nil)

/-- A check, by computation over the opcode map, that a mnemonic has exactly the rows listed. -/
def rowsCheck (m : Mnemonic) (rows : List (Byte × Mode)) : Bool :=
  (opcodeMap.all fun q => ((formHead q.2).1 == m) == rows.contains (BitVec.ofNat 8 q.1, (formHead q.2).2)) &&
    rows.all fun r => opcodeMap.any fun q => q.1 == r.1.toNat && formHead q.2 == (m, r.2)

/-- Where the check passes, the mnemonic has exactly the rows listed (proved by decide +kernel at each use). -/
theorem hasRows_of_check {m : Mnemonic} {rows : List (Byte × Mode)} (h : rowsCheck m rows = true) :
    Safety.HasRows m rows := by
  simp only [rowsCheck, Bool.and_eq_true, List.all_eq_true, List.any_eq_true, beq_iff_eq] at h
  obtain ⟨h1, h2⟩ := h
  refine ⟨fun i => ?_, fun r hr => ?_⟩
  · have key : ∃ f, (i.opcode.toNat, f) ∈ opcodeMap ∧ formHead f = (i.mnemonic, i.operand.mode) := by
      rcases ownRow i with ⟨-, h⟩ | ⟨f, n, hi, -, h⟩ | ⟨f, w, hi, -, h⟩
      · exact ⟨_, h, rfl⟩
      · exact ⟨_, h, by rw [hi]; exact (uniformRow_of_mem _ h n).symm⟩
      · exact ⟨_, h, by rw [hi]; exact (uniformRow_of_mem _ h w).symm⟩
    obtain ⟨f, hf, he⟩ := key
    have h1 := h1 _ hf
    simp only [he, BitVec.ofNat_toNat, BitVec.setWidth_eq] at h1
    rw [Bool.eq_iff_iff] at h1
    simpa using h1
  · obtain ⟨q, hq, hk, he⟩ := h2 r hr
    have hf : opForm r.1 = some q.2 := by
      apply findForm_of_mem opcodeMap_unambiguous
      rw [← hk]
      exact hq
    obtain ⟨k, f⟩ := q
    cases f with
    | f1 i => exact ⟨i, [0, 0], by simp [decode, hf], (Prod.mk.inj he).1, (Prod.mk.inj he).2⟩
    | f2 f => exact ⟨f 0, [0], by simp [decode, hf], (Prod.mk.inj he).1, (Prod.mk.inj he).2⟩
    | f3 f => exact ⟨f 0, [], by simp only [decode, hf]; rfl, (Prod.mk.inj he).1, (Prod.mk.inj he).2⟩

end Sys2Proof.Laws.Decode
end

