-- ==== Sys2Proof/Laws/Flags.lean ====
section
/-! SUPPORT. The flag computations and the shift results as arithmetic on byte values. -/

namespace Sys2Proof.Laws.Flags

open Sys2Proof.Machine

theorem bit7_eq (v : Byte) : v.getLsbD 7 = decide (128 ≤ v.toNat) := by
  revert v
  decide +kernel

theorem bit6_eq (v : Byte) : v.getLsbD 6 = decide (64 ≤ v.toNat % 128) := by
  revert v
  decide +kernel

theorem bit0_eq (v : Byte) : v.getLsbD 0 = decide (v.toNat % 2 = 1) := by
  revert v
  decide +kernel

/-- setNZ as arithmetic: N from 128 up, Z at 0 (00_scope.md R15). -/
theorem setNZ_eq (f : Flags) (v : Byte) : setNZ f v = { f with n := decide (128 ≤ v.toNat), z := decide (v = 0) } := by
  rw [setNZ, bit7_eq]

theorem byte_ext {a b : Byte} (h : a.toNat = b.toNat) : a = b := BitVec.eq_of_toNat_eq h

theorem aslResult_toNat (v : Byte) : (aslResult v).toNat = 2 * v.toNat % 256 := by
  revert v
  decide +kernel

theorem lsrResult_toNat (v : Byte) : (lsrResult v).toNat = v.toNat / 2 := by
  revert v
  decide +kernel

theorem rolResult_toNat (c : Bool) (v : Byte) : (rolResult c v).toNat = (2 * v.toNat + c.toNat) % 256 := by
  revert v
  cases c <;> decide +kernel

theorem rorResult_toNat (c : Bool) (v : Byte) : (rorResult c v).toNat = v.toNat / 2 + 128 * c.toNat := by
  revert v
  cases c <;> decide +kernel

theorem lsrResult_bit7 (v : Byte) : decide (128 ≤ (lsrResult v).toNat) = false := by
  have := v.isLt
  rw [lsrResult_toNat, decide_eq_false_iff_not]
  omega

/-- The pushed status byte, by the weight of each bit (10_state.md R113). -/
theorem packP_eq_statusOf (b : Bool) (f : Flags) : packP b f = Safety.statusOf b f := by
  obtain ⟨n, v, d, i, z, c⟩ := f
  cases b <;> cases n <;> cases v <;> cases d <;> cases i <;> cases z <;> cases c <;> rfl

/-- Pulling a pushed status byte gives back the six flags, whatever the break bit was (10_state.md R113). -/
@[simp] theorem unpackP_packP (b : Bool) (f : Flags) : unpackP (packP b f) = f := by
  obtain ⟨n, v, d, i, z, c⟩ := f
  cases b <;> cases n <;> cases v <;> cases d <;> cases i <;> cases z <;> cases c <;> rfl

@[simp] theorem bitNat_eq (b : Bool) : bitNat b = b.toNat := by cases b <;> rfl

/-! ## Carry and overflow -/

theorem and_x80 (v : Byte) : (v &&& 0x80 ≠ 0) ↔ 128 ≤ v.toNat := by
  revert v
  decide +kernel

theorem toInt_eq (v : Byte) : v.toInt = if 128 ≤ v.toNat then (v.toNat : Int) - 256 else v.toNat := by
  revert v
  decide +kernel

/-- The overflow formula of ADC as a statement about the three sign bits (45_arith.md R901). -/
theorem overflow_add_bits (a m r : Byte) :
    ((~~~(a ^^^ m) &&& (a ^^^ r) &&& 0x80) ≠ 0) ↔
      (decide (128 ≤ a.toNat) = decide (128 ≤ m.toNat) ∧ decide (128 ≤ a.toNat) ≠ decide (128 ≤ r.toNat)) := by
  rw [and_x80, ← decide_eq_true_iff (p := 128 ≤ _), ← bit7_eq, ← bit7_eq, ← bit7_eq, ← bit7_eq]
  simp only [BitVec.getLsbD_and, BitVec.getLsbD_not, BitVec.getLsbD_xor]
  cases a.getLsbD 7 <;> cases m.getLsbD 7 <;> cases r.getLsbD 7 <;> decide

/-- The overflow formula of SBC as a statement about the three sign bits (45_arith.md R902). -/
theorem overflow_sub_bits (a m r : Byte) :
    (((a ^^^ m) &&& (a ^^^ r) &&& 0x80) ≠ 0) ↔
      (decide (128 ≤ a.toNat) ≠ decide (128 ≤ m.toNat) ∧ decide (128 ≤ a.toNat) ≠ decide (128 ≤ r.toNat)) := by
  rw [and_x80, ← decide_eq_true_iff (p := 128 ≤ _), ← bit7_eq, ← bit7_eq, ← bit7_eq, ← bit7_eq]
  simp only [BitVec.getLsbD_and, BitVec.getLsbD_xor]
  cases a.getLsbD 7 <;> cases m.getLsbD 7 <;> cases r.getLsbD 7 <;> decide

/-- The overflow formula of ADC says that the signed result is not the signed sum (45_arith.md R900, R901). -/
theorem overflow_add (a m r : Byte) (c : Bool) (h : r.toNat = (a.toNat + m.toNat + c.toNat) % 256) :
    ((~~~(a ^^^ m) &&& (a ^^^ r) &&& 0x80) ≠ 0) ↔ r.toInt ≠ a.toInt + m.toInt + c.toNat := by
  have ha := a.isLt
  have hm := m.isLt
  have hc : c.toNat ≤ 1 := Bool.toNat_le c
  rw [overflow_add_bits, toInt_eq a, toInt_eq m, toInt_eq r]
  split <;> split <;> split <;> simp_all <;> omega

/-- The overflow formula of SBC says that the signed result is not the signed difference (45_arith.md R900, R902). -/
theorem overflow_sub (a m r : Byte) (c : Bool)
    (h : (r.toNat : Int) = ((a.toNat : Int) - m.toNat - (1 - c.toNat)) % 256) :
    (((a ^^^ m) &&& (a ^^^ r) &&& 0x80) ≠ 0) ↔ r.toInt ≠ a.toInt - m.toInt - (1 - c.toNat) := by
  have ha := a.isLt
  have hm := m.isLt
  have hc : c.toNat ≤ 1 := Bool.toNat_le c
  rw [overflow_sub_bits, toInt_eq a, toInt_eq m, toInt_eq r]
  split <;> split <;> split <;> simp_all <;> omega

end Sys2Proof.Laws.Flags
end

