-- ==== Sys2Proof/Laws/Stack.lean ====
section
/-! SUPPORT. The stack as a claim reads it: what a push puts at $0100 + S, what it leaves alone, and what entering a handler
pushes, over Safety's Pushed and EntersHandler. -/

namespace Sys2Proof.Laws.Stack

open Sys2Proof.Machine Sys2Proof.Safety Sys2Proof.Laws.Bus

theorem stackSlot_eq (sp : Byte) : stackSlot sp = stackAddr sp := by
  apply BitVec.eq_of_toNat_eq
  have := sp.isLt
  rw [stackAddr_toNat, stackSlot, BitVec.toNat_add, BitVec.toNat_setWidth]
  show (0x100 + sp.toNat % 2 ^ 16) % 2 ^ 16 = _
  omega

/-- A stack slot is one cell of RAM, whatever RAM_MIRROR is. -/
theorem busRegion_stackSlot (rm : Bool) (sp : Byte) : busRegion rm (stackSlot sp) = .ram (0x100 + sp.toNat) := by
  have := sp.isLt
  rw [stackSlot_eq, busRegion_ram (by rw [stackAddr_toNat]; omega), stackAddr_toNat]
  cases rm
  · rfl
  · simp only [if_true]
    congr 1
    omega

theorem byteAt_stackSlot (s : State) (sp : Byte) : byteAt s (stackSlot sp) = some (memGet s.mem (0x100 + sp.toNat)) := by
  rw [byteAt, busRegion_stackSlot]

theorem sameByte_stackSlot {s : State} {p q : Byte} : SameByte s (stackSlot p) (stackSlot q) ↔ p = q := by
  rw [SameByte, busRegion_stackSlot, busRegion_stackSlot]
  constructor
  · intro h
    injection h with h
    exact BitVec.eq_of_toNat_eq (by omega)
  · rintro rfl
    rfl

/-- What stands at an address depends on the CPU memory and RAM_MIRROR only. -/
theorem byteAt_congr {s t : State} (hm : t.mem = s.mem) (hr : t.ramMirror = s.ramMirror) (a : Word) :
    byteAt t a = byteAt s a := by
  rw [byteAt, byteAt, hm, hr]

/-- A push stores its byte in the slot S points to (47_stack_jump.md R1100). -/
theorem byteAt_push_self {s : State} (hw : Memory.wf s.mem = true) (v : Byte) :
    byteAt (push v s) (stackSlot s.sp) = some v := by
  rw [byteAt_stackSlot, push_eq]
  exact congrArg some (Memory.memGet_memPut_self hw)

/-- A push leaves every byte but that of its slot alone (47_stack_jump.md R1100). -/
theorem byteAt_push_other {s : State} (v : Byte) {a : Word} (h : ¬ SameByte s a (stackSlot s.sp)) :
    byteAt (push v s) a = byteAt s a := by
  rw [SameByte, busRegion_stackSlot] at h
  simp only [push_eq, byteAt, State.ramMirror_setSp, State.ramMirror_setMem, State.mem_setSp, State.mem_setMem]
  split
  · rename_i cell hc
    rw [hc] at h
    rw [Memory.memGet_memPut_other]
    rintro rfl
    exact h rfl
  · rfl
  · rfl
  · rfl
  · rename_i cell hc
    rcases busRegion_cases s.ramMirror a with ⟨_, h'⟩ | ⟨_, _, h'⟩ | ⟨_, h'⟩ | ⟨_, _, _, h'⟩ | ⟨hle, h'⟩ <;>
      rw [h'] at hc <;> cases hc
    have := s.sp.isLt
    rw [Memory.memGet_memPut_other (by omega)]

theorem wf_push {s : State} (hw : Memory.wf s.mem = true) (v : Byte) : Memory.wf (push v s).mem = true := by
  rw [push_eq]
  exact Memory.wf_memPut hw

@[simp] theorem push_flags (v : Byte) (s : State) : (push v s).flags = s.flags := by rw [push_eq]; rfl
@[simp] theorem push_pc (v : Byte) (s : State) : (push v s).pc = s.pc := by rw [push_eq]; rfl
@[simp] theorem push_sp (v : Byte) (s : State) : (push v s).sp = s.sp - 1 := by rw [push_eq]; rfl
@[simp] theorem push_ramMirror (v : Byte) (s : State) : (push v s).ramMirror = s.ramMirror := by rw [push_eq]; rfl

theorem pushed_nil (s : State) (pc : Word) (f : Flags) : Pushed s ((s.setPc pc).setFlags f) [] := by
  refine ⟨fun k b h => by simp at h, fun a _ => rfl, ?_⟩
  simp [State.setPc, State.setFlags]

theorem sub_ofNat_succ (p : Byte) (k : Nat) : p - 1 - BitVec.ofNat 8 k = p - BitVec.ofNat 8 (k + 1) := by
  apply BitVec.eq_of_toNat_eq
  have := p.isLt
  simp only [BitVec.toNat_sub, BitVec.toNat_ofNat, BitVec.ofNat_eq_ofNat]
  omega

theorem slot_ne {p : Byte} {k : Nat} (h : k + 1 ≤ 255) : p - BitVec.ofNat 8 (k + 1) ≠ p := by
  intro h'
  have := congrArg BitVec.toNat h'
  have hp := p.isLt
  simp only [BitVec.toNat_sub, BitVec.toNat_ofNat] at this
  omega

/-- A push and then the pushes of some more bytes are the pushes of all of them. -/
theorem pushed_cons {s t : State} {b : Byte} {bs : List Byte} (hw : Memory.wf s.mem = true) (hl : bs.length ≤ 255)
    (h : Pushed (push b s) t bs) : Pushed s t (b :: bs) := by
  obtain ⟨h1, h2, h3⟩ := h
  simp only [push_sp, push_ramMirror, SameByte, sub_ofNat_succ] at h1 h2
  refine ⟨fun k c hk => ?_, fun a ha => ?_, ?_⟩
  · cases k with
    | zero =>
      simp only [List.getElem?_cons_zero, Option.some.injEq] at hk
      subst hk
      have e : s.sp - BitVec.ofNat 8 0 = s.sp := by simp
      rw [e, h2, byteAt_push_self hw]
      intro k hk hs
      exact slot_ne (by omega) (sameByte_stackSlot (s := s).1 hs).symm
    | succ k => exact h1 k c (by simpa using hk)
  · rw [h2 a (fun k hk => ha (k + 1) (by simpa using hk)), byteAt_push_other]
    simpa using ha 0 (by simp)
  · rw [h3, push_eq]
    simp only [State.setMem, State.setSp, List.length_cons, sub_ofNat_succ]

/-- Entering a handler through a vector, as a claim states it (60_exceptions.md R1607). -/
theorem entersHandler {s : State} (hw : Memory.wf s.mem = true) (ret : Word) (b : Bool) {vec : Word}
    (h : 0x4020 ≤ vec.toNat) (h' : vec.toNat < 0xFFFF) :
    EntersHandler s (enterHandler ret b vec s) ret (statusOf b s.flags) vec := by
  have h1 : (vec + 1).toNat = vec.toNat + 1 := by
    rw [BitVec.toNat_add]; show (vec.toNat + 1) % 2 ^ 16 = _; omega
  have hput : ∀ (m : Memory) (k : Nat) (v : Byte) (c : Nat), k ≤ 0x1FFF → 0x4020 ≤ c →
      memGet (memPut k v m) c = memGet m c := fun m k v c hk hc => Memory.memGet_memPut_other (by omega)
  have hs : ∀ p : Byte, 0x100 + p.toNat ≤ 0x1FFF := fun p => by have := p.isLt; omega
  refine ⟨?_, ?_, memGet s.mem vec.toNat, memGet s.mem (vec.toNat + 1), ?_, ?_, ?_⟩
  · have e : enterHandler ret b vec s =
        ((push (packP b s.flags) (push (lowByte ret) (push (highByte ret) s))).setPc
          (enterHandler ret b vec s).pc).setFlags { s.flags with i := true } := by
      rw [enterHandler_eq ret b h h']
      simp only [push_eq]
      rfl
    rw [e, ← Flags.packP_eq_statusOf]
    exact pushed_cons hw (by simp) (pushed_cons (wf_push hw _) (by simp)
      (pushed_cons (wf_push (wf_push hw _) _) (by simp) (pushed_nil _ _ _)))
  · rw [enterHandler_eq ret b h h']
  · rw [byteAt, busRegion_cart h]
  · rw [byteAt, busRegion_cart (by omega), h1]
  · rw [enterHandler_eq ret b h h']
    simp only
    rw [hput _ _ _ _ (hs _) (by omega), hput _ _ _ _ (hs _) (by omega), hput _ _ _ _ (hs _) (by omega),
      hput _ _ _ _ (hs _) (by omega), hput _ _ _ _ (hs _) (by omega), hput _ _ _ _ (hs _) (by omega)]
    apply BitVec.eq_of_toNat_eq
    have hlo := (memGet s.mem vec.toNat).isLt
    have hhi := (memGet s.mem (vec.toNat + 1)).isLt
    rw [Decode.joinBytes_toNat, BitVec.toNat_ofNat]
    omega

end Sys2Proof.Laws.Stack
end

