-- ==== Sys2Proof/Laws/Frames.lean ====
section
/-! SUPPORT. What bus accesses, operands and whole effects leave alone: ReadEffect and KeepsDriverState as relations between a
state and a later one, closed under sequencing, with one lemma per shared operation. -/

namespace Sys2Proof.Laws.Frames

open Sys2Proof.Machine Sys2Proof.Safety Sys2Proof.Laws.Bus Sys2Proof.Laws.Operands

/-! ## Reads -/

theorem readEffect_refl (s : State) : ReadEffect s s :=
  ⟨s.ppu.vblank, s.ppu.w, s.ppu.readBuffer, s.ppu.vramAddr, s.draws, rfl⟩

theorem readEffect_trans {s t u : State} (h : ReadEffect s t) (h' : ReadEffect t u) : ReadEffect s u := by
  obtain ⟨_, _, _, _, _, h⟩ := h
  obtain ⟨_, _, _, _, _, h'⟩ := h'
  subst h h'
  exact ⟨_, _, _, _, _, rfl⟩

theorem readEffect_memRead (a : Word) (s : State) : ReadEffect s (memRead a s).2 := memRead_frame a s

theorem readEffect_resolve (o : Operand) (s : State) : ReadEffect s (resolve o s).2 := resolve_frame o s

theorem readEffect_operandAt (ea : Resolved) (s : State) : ReadEffect s (operandAt ea s).2 := operandAt_frame ea s

theorem readEffect_loadOperand (o : Operand) (s : State) : ReadEffect s (loadOperand o s).2 := loadOperand_frame o s

/-- A read-modify-write is a state that reads led to, the store of a byte to the resolved operand, and the flags
(42_shift.md R604). -/
theorem modifyOperand_spec (res : Flags → Byte → Byte) (fl : Flags → Byte → Flags) (o : Operand) (s : State) :
    ∃ v u, ReadEffect s u ∧
      modifyOperand res fl o s = (storeAt (resolve o s).1 (res s.flags v) u).setFlags (fl s.flags v) := by
  refine ⟨(operandAt (resolve o s).1 (resolve o s).2).1, (operandAt (resolve o s).1 (resolve o s).2).2,
    readEffect_trans (readEffect_resolve o s) (readEffect_operandAt _ _), ?_⟩
  exact Exec.modifyOperand_eq rfl rfl

/-- Storing a register is a state that reads led to and the store (46_load_store.md R1003). -/
theorem storeOperand_spec (o : Operand) (v : Byte) (s : State) :
    ∃ u, ReadEffect s u ∧ storeOperand o v s = storeAt (resolve o s).1 v u :=
  ⟨_, readEffect_resolve o s, rfl⟩

/-- A branch or a jump changes what its resolver's reads change, and PC. -/
theorem jumpTo_spec (t : Resolved) (s : State) : ∃ pc, jumpTo t s = s.setPc pc := by
  cases t
  · exact ⟨s.pc, rfl⟩
  · exact ⟨s.pc, rfl⟩
  · exact ⟨_, rfl⟩

/-- The PPU after a store in accumulator mode, and everything but A, is as before. -/
theorem storeAt_noAddr (v : Byte) (s : State) : storeAt .noAddr v s = s.setA v := rfl

/-- An instruction that stores in a memory mode only, or modifies memory only, resolves to an address with no side effect. -/
theorem resolve_addr {i : Instr} (h : i.mnemonic ∈ [Mnemonic.sta, .stx, .sty, .inc, .dec]) (s : State) :
    ∃ ea, resolve i.operand s = (.addr ea, s) := by
  cases i <;> simp [Instr.mnemonic] at h <;> simp [Instr.operand, resolve, zeroPagePointer_eq]

/-- A shift or rotate of memory resolves to an address with no side effect. -/
theorem resolve_addr_shift {i : Instr} (h : i.mnemonic ∈ [Mnemonic.asl, .lsr, .rol, .ror]) (hm : i.operand ≠ .acc)
    (s : State) : ∃ ea, resolve i.operand s = (.addr ea, s) := by
  cases i <;> simp [Instr.mnemonic] at h <;> simp [Instr.operand] at hm <;> simp [Instr.operand, resolve]

section Fields
variable (res : Flags → Byte → Byte) (fl : Flags → Byte → Flags) (o : Operand) (v : Byte) (s : State)

theorem storeAt_keeps (ea : Resolved) (v : Byte) (s : State) :
    (storeAt ea v s).x = s.x ∧ (storeAt ea v s).y = s.y ∧ (storeAt ea v s).sp = s.sp ∧ (storeAt ea v s).pc = s.pc ∧
      (storeAt ea v s).flags = s.flags ∧ (storeAt ea v s).fault = s.fault := by
  obtain ⟨_, _, _, _, _, h, -⟩ := storeAt_frame ea v s
  rw [h]
  exact ⟨rfl, rfl, rfl, rfl, rfl, rfl⟩

@[simp] theorem modifyOperand_flags : (modifyOperand res fl o s).flags = fl s.flags (loadOperand o s).1 := by
  have h : (loadOperand o s).2.flags = s.flags := loadOperand_flags o s
  show fl (loadOperand o s).2.flags (loadOperand o s).1 = _
  rw [h]
@[simp] theorem modifyOperand_x : (modifyOperand res fl o s).x = s.x :=
  (storeAt_keeps (resolve o s).1 _ (loadOperand o s).2).1.trans (loadOperand_x o s)
@[simp] theorem modifyOperand_y : (modifyOperand res fl o s).y = s.y :=
  (storeAt_keeps (resolve o s).1 _ (loadOperand o s).2).2.1.trans (loadOperand_y o s)
@[simp] theorem modifyOperand_sp : (modifyOperand res fl o s).sp = s.sp :=
  (storeAt_keeps (resolve o s).1 _ (loadOperand o s).2).2.2.1.trans (loadOperand_sp o s)
@[simp] theorem modifyOperand_pc : (modifyOperand res fl o s).pc = s.pc :=
  (storeAt_keeps (resolve o s).1 _ (loadOperand o s).2).2.2.2.1.trans (loadOperand_pc o s)

theorem resolve_keeps : (resolve o s).2.a = s.a ∧ (resolve o s).2.x = s.x ∧ (resolve o s).2.y = s.y ∧
    (resolve o s).2.sp = s.sp ∧ (resolve o s).2.pc = s.pc ∧ (resolve o s).2.flags = s.flags ∧
    (resolve o s).2.fault = s.fault := by
  obtain ⟨_, _, _, _, _, h⟩ := resolve_frame o s
  rw [h]
  exact ⟨rfl, rfl, rfl, rfl, rfl, rfl, rfl⟩

@[simp] theorem resolve_a : (resolve o s).2.a = s.a := (resolve_keeps o s).1
@[simp] theorem resolve_x : (resolve o s).2.x = s.x := (resolve_keeps o s).2.1
@[simp] theorem resolve_y : (resolve o s).2.y = s.y := (resolve_keeps o s).2.2.1
@[simp] theorem resolve_sp : (resolve o s).2.sp = s.sp := (resolve_keeps o s).2.2.2.1
@[simp] theorem resolve_pc : (resolve o s).2.pc = s.pc := (resolve_keeps o s).2.2.2.2.1
@[simp] theorem resolve_flags' : (resolve o s).2.flags = s.flags := (resolve_keeps o s).2.2.2.2.2.1

@[simp] theorem storeOperand_x : (storeOperand o v s).x = s.x := (storeAt_keeps _ _ _).1.trans (resolve_x o s)
@[simp] theorem storeOperand_y : (storeOperand o v s).y = s.y := (storeAt_keeps _ _ _).2.1.trans (resolve_y o s)
@[simp] theorem storeOperand_sp : (storeOperand o v s).sp = s.sp := (storeAt_keeps _ _ _).2.2.1.trans (resolve_sp o s)
@[simp] theorem storeOperand_pc : (storeOperand o v s).pc = s.pc :=
  (storeAt_keeps _ _ _).2.2.2.1.trans (resolve_pc o s)
@[simp] theorem storeOperand_flags : (storeOperand o v s).flags = s.flags :=
  (storeAt_keeps _ _ _).2.2.2.2.1.trans (resolve_flags' o s)

end Fields

@[simp] theorem jumpTo_a (t : Resolved) (s : State) : (jumpTo t s).a = s.a := by cases t <;> rfl
@[simp] theorem jumpTo_x (t : Resolved) (s : State) : (jumpTo t s).x = s.x := by cases t <;> rfl
@[simp] theorem jumpTo_y (t : Resolved) (s : State) : (jumpTo t s).y = s.y := by cases t <;> rfl
@[simp] theorem jumpTo_sp (t : Resolved) (s : State) : (jumpTo t s).sp = s.sp := by cases t <;> rfl
@[simp] theorem jumpTo_flags (t : Resolved) (s : State) : (jumpTo t s).flags = s.flags := by cases t <;> rfl
@[simp] theorem jumpTo_fault (t : Resolved) (s : State) : (jumpTo t s).fault = s.fault := by cases t <;> rfl
@[simp] theorem jumpTo_mem (t : Resolved) (s : State) : (jumpTo t s).mem = s.mem := by cases t <;> rfl

@[simp] theorem push_a (v : Byte) (s : State) : (push v s).a = s.a := by rw [push_eq]; rfl
@[simp] theorem push_x (v : Byte) (s : State) : (push v s).x = s.x := by rw [push_eq]; rfl
@[simp] theorem push_y (v : Byte) (s : State) : (push v s).y = s.y := by rw [push_eq]; rfl
@[simp] theorem push_fault (v : Byte) (s : State) : (push v s).fault = s.fault := by rw [push_eq]; rfl

/-! ## What only the driver writes -/

theorem keeps_refl (s : State) : KeepsDriverState s s := ⟨rfl, rfl, rfl, rfl, rfl, rfl, rfl, rfl, id⟩

theorem keeps_trans {s t u : State} (h : KeepsDriverState s t) (h' : KeepsDriverState t u) : KeepsDriverState s u := by
  obtain ⟨a1, a2, a3, a4, a5, a6, a7, a8, a9⟩ := h
  obtain ⟨b1, b2, b3, b4, b5, b6, b7, b8, b9⟩ := h'
  exact ⟨b1.trans a1, b2.trans a2, b3.trans a3, b4.trans a4, b5.trans a5, b6.trans a6, b7.trans a7, b8.trans a8,
    fun h => a9 (b9 h)⟩

theorem keeps_memRead (a : Word) (s : State) : KeepsDriverState s (memRead a s).2 := by
  unfold memRead
  split
  case h_2 p _ =>
    cases p
    case ppuStatus => exact ⟨rfl, rfl, rfl, rfl, rfl, rfl, rfl, rfl, fun h => nomatch h⟩
    all_goals exact ⟨rfl, rfl, rfl, rfl, rfl, rfl, rfl, rfl, id⟩
  all_goals exact ⟨rfl, rfl, rfl, rfl, rfl, rfl, rfl, rfl, id⟩

theorem keeps_portWrite (p : Port) (v : Byte) (s : State) : KeepsDriverState s (portWrite p v s) := by
  cases p
  case ppuCtrl => exact (congrArg (KeepsDriverState s) (Ports.writeCtrl_eq v s)).mpr ⟨rfl, rfl, rfl, rfl, rfl, rfl, rfl, rfl, id⟩
  case ppuScroll =>
    simp only [portWrite, writeScroll]
    split <;> exact ⟨rfl, rfl, rfl, rfl, rfl, rfl, rfl, rfl, id⟩
  case ppuAddr =>
    simp only [portWrite, writeAddr]
    split <;> exact ⟨rfl, rfl, rfl, rfl, rfl, rfl, rfl, rfl, id⟩
  all_goals exact ⟨rfl, rfl, rfl, rfl, rfl, rfl, rfl, rfl, id⟩

theorem keeps_dmaFrom (page : Byte) (n i : Nat) (s : State) : KeepsDriverState s (dmaFrom page i n s) := by
  induction n generalizing i s with
  | zero => exact keeps_refl s
  | succ n ih =>
    refine keeps_trans ?_ (ih (i + 1) _)
    exact keeps_trans (keeps_memRead (joinBytes page (BitVec.ofNat 8 i)) s) ⟨rfl, rfl, rfl, rfl, rfl, rfl, rfl, rfl, id⟩

theorem keeps_memWrite (a : Word) (v : Byte) (s : State) : KeepsDriverState s (memWrite a v s) := by
  unfold memWrite
  split
  case h_2 p _ => exact keeps_portWrite p v s
  case h_3 => exact keeps_dmaFrom v 256 0 s
  case h_5 => split <;> exact ⟨rfl, rfl, rfl, rfl, rfl, rfl, rfl, rfl, id⟩
  all_goals exact ⟨rfl, rfl, rfl, rfl, rfl, rfl, rfl, rfl, id⟩

theorem keeps_resolve (o : Operand) (s : State) : KeepsDriverState s (resolve o s).2 := by
  cases o
  case ind w =>
    simp only [resolve, pageWrapPointer]
    exact keeps_trans (keeps_memRead _ _) (keeps_memRead _ _)
  all_goals simp only [resolve, zeroPagePointer_eq]; exact keeps_refl s

theorem keeps_operandAt (ea : Resolved) (s : State) : KeepsDriverState s (operandAt ea s).2 := by
  cases ea
  case addr a => exact keeps_memRead a s
  all_goals exact keeps_refl s

theorem keeps_loadOperand (o : Operand) (s : State) : KeepsDriverState s (loadOperand o s).2 :=
  keeps_trans (keeps_resolve o s) (keeps_operandAt _ _)

theorem keeps_storeAt (ea : Resolved) (v : Byte) (s : State) : KeepsDriverState s (storeAt ea v s) := by
  cases ea
  case addr a => exact keeps_memWrite a v s
  all_goals exact ⟨rfl, rfl, rfl, rfl, rfl, rfl, rfl, rfl, id⟩

theorem keeps_storeOperand (o : Operand) (v : Byte) (s : State) : KeepsDriverState s (storeOperand o v s) :=
  keeps_trans (keeps_resolve o s) (keeps_storeAt _ _ _)

theorem keeps_modifyOperand (res : Flags → Byte → Byte) (fl : Flags → Byte → Flags) (o : Operand) (s : State) :
    KeepsDriverState s (modifyOperand res fl o s) :=
  keeps_trans (keeps_trans (keeps_loadOperand o s) (keeps_storeAt (resolve o s).1 _ _))
    ⟨rfl, rfl, rfl, rfl, rfl, rfl, rfl, rfl, id⟩

theorem keeps_jumpTo (t : Resolved) (s : State) : KeepsDriverState s (jumpTo t s) := by
  cases t <;> exact ⟨rfl, rfl, rfl, rfl, rfl, rfl, rfl, rfl, id⟩

theorem keeps_push (v : Byte) (s : State) : KeepsDriverState s (push v s) := by
  rw [push_eq]
  exact ⟨rfl, rfl, rfl, rfl, rfl, rfl, rfl, rfl, id⟩

theorem keeps_enterHandler (ret : Word) (b : Bool) {vec : Word} (h : 0x4020 ≤ vec.toNat) (h' : vec.toNat < 0xFFFF)
    (s : State) : KeepsDriverState s (enterHandler ret b vec s) := by
  rw [enterHandler_eq ret b h h']
  exact ⟨rfl, rfl, rfl, rfl, rfl, rfl, rfl, rfl, id⟩

theorem keeps_returnFromHandler (s : State) : KeepsDriverState s (returnFromHandler s) := by
  rw [returnFromHandler_eq]
  exact ⟨rfl, rfl, rfl, rfl, rfl, rfl, rfl, rfl, id⟩

end Sys2Proof.Laws.Frames
end

