-- ==== Sys2Proof/Laws/Closed.lean ====
section
/-! SUPPORT. What a step can do, said once: an instruction acts by bus accesses and by changes of registers and flags, so a
relation between states that those stay within holds across it (BusClosed); and a step is one of five things (leaves_cases). -/

namespace Sys2Proof.Laws.Closed

open Sys2Proof.Machine Sys2Proof.Safety Sys2Proof.Laws.Bus Sys2Proof.Laws.Frames Sys2Proof.Laws.Exec Sys2Proof.Laws.Stack
  Sys2Proof.Laws.Decode

/-- A relation between states that bus accesses and changes of the CPU's registers and flags stay within. -/
structure BusClosed (R : State → State → Prop) : Prop where
  trans : ∀ {s t u}, R s t → R t u → R s u
  regs : ∀ (s : State) a x y sp pc f, R s { s with a := a, x := x, y := y, sp := sp, pc := pc, flags := f }
  read : ∀ a s, R s (memRead a s).2
  write : ∀ a v s, R s (memWrite a v s)

section
variable {R : State → State → Prop} (h : BusClosed R)
include h

theorem BusClosed.refl (s) : R s s := h.regs s s.a s.x s.y s.sp s.pc s.flags
theorem BusClosed.setA (v s) : R s (s.setA v) := h.regs s v s.x s.y s.sp s.pc s.flags
theorem BusClosed.setPc (v s) : R s (s.setPc v) := h.regs s s.a s.x s.y s.sp v s.flags
theorem BusClosed.setSp (v s) : R s (s.setSp v) := h.regs s s.a s.x s.y v s.pc s.flags
theorem BusClosed.setFlags (v s) : R s (s.setFlags v) := h.regs s s.a s.x s.y s.sp s.pc v

theorem BusClosed.read16 (a s) : R s (memRead16 a s).2 := h.trans (h.read _ _) (h.read _ _)

theorem BusClosed.push (v s) : R s (push v s) := h.trans (h.write _ _ _) (h.setSp _ _)
theorem BusClosed.pull (s) : R s (pull s).2 := h.trans (h.setSp _ _) (h.read _ _)

theorem BusClosed.enterHandler (ret b vec s) : R s (enterHandler ret b vec s) :=
  h.trans (h.push _ s) (h.trans (h.push _ _) (h.trans (h.push _ _)
    (h.trans (h.setFlags _ _) (h.trans (h.read16 _ _) (h.setPc _ _)))))

theorem BusClosed.returnFromHandler (s) : R s (returnFromHandler s) :=
  h.trans (h.pull s) (h.trans (h.setFlags _ _) (h.trans (h.pull _) (h.trans (h.pull _) (h.setPc _ _))))

theorem BusClosed.resolve (o s) : R s (resolve o s).2 := by
  cases o
  case ind w => exact h.trans (h.read _ _) (h.read _ _)
  case izx n => exact h.trans (h.read _ _) (h.read _ _)
  case izy n => exact h.trans (h.read _ _) (h.read _ _)
  all_goals exact h.refl s

theorem BusClosed.operandAt (ea s) : R s (operandAt ea s).2 := by
  cases ea
  case addr a => exact h.read a s
  all_goals exact h.refl s

theorem BusClosed.storeAt (ea v s) : R s (storeAt ea v s) := by
  cases ea
  case addr a => exact h.write a v s
  case noAddr => exact h.setA v s
  case imm => exact h.refl s

theorem BusClosed.jumpTo (t s) : R s (jumpTo t s) := by
  cases t
  case addr a => exact h.setPc a s
  all_goals exact h.refl s

theorem BusClosed.loadOperand (o s) : R s (loadOperand o s).2 := h.trans (h.resolve o s) (h.operandAt _ _)
theorem BusClosed.storeOperand (o v s) : R s (storeOperand o v s) := h.trans (h.resolve o s) (h.storeAt _ _ _)
theorem BusClosed.modifyOperand (r f o s) : R s (modifyOperand r f o s) :=
  h.trans (h.loadOperand o s) (h.trans (h.storeAt (Machine.resolve o s).1 _ _) (h.setFlags _ _))

/-- Whatever an instruction does, it does by bus accesses and changes of registers and flags. -/
theorem BusClosed.effect (m o s) : R s (effect m o s) := by
  have ld : ∀ a x y f, R s { (Machine.loadOperand o s).2 with a := a, x := x, y := y, flags := f } := fun a x y f =>
    h.trans (h.loadOperand o s) (h.regs _ a x y _ _ f)
  have br : ∀ c, R s (branchEffect c o s) := by
    intro c
    cases c
    · exact h.resolve o s
    · exact h.trans (h.resolve o s) (h.jumpTo _ _)
  cases m
  case ora | and | eor | bit | adc | sbc | cmp | cpx | cpy | lda | ldx | ldy => exact ld _ _ _ _
  case asl | lsr | rol | ror | inc | dec =>
    simp only [Exec.effect, effAsl, effLsr, effRol, effRor, effInc, effDec]
    exact h.modifyOperand _ _ o s
  case sta | stx | sty => exact h.storeOperand _ _ _
  case bpl | bmi | bvc | bvs | bcc | bcs | bne | beq => exact br _
  case pha | php => exact h.push _ _
  case pla => exact h.trans (h.pull s) (h.regs _ _ _ _ _ _ _)
  case plp => exact h.trans (h.pull s) (h.setFlags _ _)
  case jmp => exact h.trans (h.resolve o s) (h.jumpTo _ _)
  case jsr => exact h.trans (h.resolve o s) (h.trans (h.push _ _) (h.trans (h.push _ _) (h.jumpTo _ _)))
  case rts => exact h.trans (h.pull s) (h.trans (h.pull _) (h.setPc _ _))
  case rti => exact h.returnFromHandler s
  case brk => exact h.enterHandler _ _ _ _
  all_goals exact h.regs s _ _ _ _ _ _

theorem BusClosed.fetch8 (s) : R s (fetch8 s).2 := h.trans (h.read _ _) (h.setPc _ _)

/-- The state a fetch leaves is reached by bus reads. -/
theorem BusClosed.fetchInstr (s) : (∀ op t, fetchInstr s = .undefined op t → R s t) ∧ (∀ i t, fetchInstr s = .instr i t → R s t) := by
  have h1 := h.fetch8 s
  have h2 := h.trans h1 (h.fetch8 _)
  have h3 := h.trans h2 (h.fetch8 _)
  simp only [Machine.fetchInstr]
  rcases opForm (Machine.fetch8 s).1 with _ | _ | _ | _ <;> simp only [Fetched.undefined.injEq, Fetched.instr.injEq, reduceCtorEq, false_implies, implies_true, true_and, and_true, and_imp]
  · rintro _ _ - rfl; exact h1
  · rintro _ _ - rfl; exact h1
  · rintro _ _ - rfl; exact h2
  · rintro _ _ - rfl; exact h3
end

/-! ## The fetch and the step -/

/-- The reads of a fetch, with PC left out of account. -/
theorem readEffect_fetch8 {s t : State} (p : Word) (h : ReadEffect (s.setPc p) (t.setPc p)) :
    ReadEffect (s.setPc p) ((fetch8 t).2.setPc p) := by
  refine readEffect_trans h ?_
  have := readEffect_memRead t.pc (t.setPc p)
  rwa [memRead_setPc] at this

/-- What a fetch that finds an instruction does: its opcode is the byte read at PC, PC ends past it, and nothing else changes
but what bus reads change (40_addressing.md R402, R404). -/
theorem fetchInstr_instr {s t : State} {i : Instr} (h : fetchInstr s = .instr i t) :
    i.opcode = (memRead s.pc s).1 ∧ t.pc = s.pc + BitVec.ofNat 16 i.operand.mode.length ∧
      ReadEffect (s.setPc t.pc) t := by
  have e1 : ∀ p, ReadEffect (s.setPc p) ((fetch8 s).2.setPc p) := fun p => readEffect_fetch8 p (readEffect_refl _)
  have e2 : ∀ p, ReadEffect (s.setPc p) ((fetch8 (fetch8 s).2).2.setPc p) := fun p => readEffect_fetch8 p (e1 p)
  have e3 : ∀ p, ReadEffect (s.setPc p) ((fetch8 (fetch8 (fetch8 s).2).2).2.setPc p) := fun p => readEffect_fetch8 p (e2 p)
  have p1 : (fetch8 s).2.pc = s.pc + 1 := by rw [fetch8_eq]; rfl
  have p2 : (fetch8 (fetch8 s).2).2.pc = s.pc + 2 := by rw [fetch8_eq (fetch8 s).2, p1]; exact BitVec.add_assoc ..
  have p3 : (fetch8 (fetch8 (fetch8 s).2).2).2.pc = s.pc + 3 := by
    rw [fetch8_eq (fetch8 (fetch8 s).2).2, p2]; exact BitVec.add_assoc ..
  have len : i.operand.mode.length = i.operand.bytes.length + 1 := by cases i.operand <;> rfl
  simp only [fetchInstr] at h
  have hop : (fetch8 s).1 = (memRead s.pc s).1 := rfl
  rw [hop] at h
  generalize hm : (memRead s.pc s).1 = op at h ⊢
  generalize (fetch8 (fetch8 (fetch8 s).2).2).2 = s3 at h e3 p3
  generalize (fetch8 (fetch8 s).2).2 = s2 at h e2 p2
  generalize (fetch8 s).2 = s1 at h e1 p1
  rw [len]
  cases hF : opForm op with
  | none => rw [hF] at h; cases h
  | some f =>
    have hg := goodRow_of_opForm hF
    rw [hF] at h
    cases f with
    | f1 j =>
      injection h with hi ht
      subst hi ht
      exact ⟨BitVec.eq_of_toNat_eq hg.1, by rw [hg.2.1]; exact p1, e1 _⟩
    | f2 f =>
      injection h with hi ht
      subst hi ht
      exact ⟨BitVec.eq_of_toNat_eq (hg _).1, by rw [(hg _).2.1]; exact p2, e2 _⟩
    | f3 f =>
      injection h with hi ht
      subst hi ht
      exact ⟨BitVec.eq_of_toNat_eq (hg _).1, by rw [(hg _).2.1]; exact p3, e3 _⟩

/-- What a step does: the sticky fault, the NMI entry, the IRQ entry, an undefined opcode, or an instruction
(60_exceptions.md R1606, R1602, R1601). -/
theorem leaves_cases (s : State) :
    (∃ f, s.fault = some f ∧ leaves s = s ∧ step s = .fault f) ∨ (s.fault = none ∧ s.nmiPending = true ∧ leaves s = takeNmi s ∧ step s = .next (takeNmi s)) ∨
    (s.fault = none ∧ s.nmiPending = false ∧ s.irqLine = true ∧ s.flags.i = false ∧ leaves s = takeIrq s ∧ step s = .next (takeIrq s)) ∨
    (Fetches s ∧ ∃ op t, fetchInstr s = .undefined op t ∧ leaves s = haltUndefined op s.pc t ∧ step s = .fault (.undefinedOpcode op s.pc)) ∨
    (Fetches s ∧ ∃ i t, fetchInstr s = .instr i t ∧ leaves s = effect i.mnemonic i.operand t ∧ step s = .next (effect i.mnemonic i.operand t)) := by
  unfold leaves step stepEvent Fetches
  cases hf : s.fault with
  | some f => exact .inl ⟨f, rfl, rfl, rfl⟩
  | none =>
    right
    cases hn : s.nmiPending
    · right
      cases hi : s.irqLine <;> cases hI : s.flags.i
      case true.false => left; exact ⟨rfl, rfl, rfl, rfl, rfl, rfl⟩
      all_goals
        right
        cases he : fetchInstr s with
        | undefined op t => left; refine ⟨⟨rfl, rfl, by simp⟩, op, t, rfl, ?_⟩; simp
        | instr i t => right; refine ⟨⟨rfl, rfl, by simp⟩, i, t, rfl, ?_⟩; simp [exec_eq_effect]
    · left; exact ⟨rfl, rfl, rfl, rfl⟩

/-! ## Bytes a write leaves alone -/

theorem setMem_other {ea : Word} {v : Byte} {s : State} {a : Word} {cell : Nat} (hr : busRegion s.ramMirror ea = .ram cell ∨ busRegion s.ramMirror ea = .cart cell) (h : ¬ SameByte s a ea) : byteAt (s.setMem (memPut cell v s.mem)) a = byteAt s a := by
  unfold SameByte at h
  unfold byteAt
  simp only [State.ramMirror_setMem, State.mem_setMem]
  cases ha : busRegion s.ramMirror a with
  | ram c =>
    dsimp only
    rw [Memory.memGet_memPut_other]
    rintro rfl
    rcases hr with hr | hr
    · exact h (ha.trans hr.symm)
    · have := busRegion_ram_le ha; have := busRegion_cart_ge hr; omega
  | cart c =>
    dsimp only
    rw [Memory.memGet_memPut_other]
    rintro rfl
    rcases hr with hr | hr
    · have := busRegion_ram_le hr; have := busRegion_cart_ge ha; omega
    · exact h (ha.trans hr.symm)
  | _ => rfl

/-- A bus write leaves every byte but that of its own cell alone (20_memory.md R205). -/
theorem memWrite_other {ea : Word} {v : Byte} {s : State} {a : Word} (h : ¬ SameByte s a ea) : byteAt (memWrite ea v s) a = byteAt s a := by
  unfold memWrite
  cases hr : busRegion s.ramMirror ea with
  | ram cell => exact setMem_other (.inl hr) h
  | cart cell =>
    dsimp only
    split
    · exact setMem_other (.inr hr) h
    · rfl
  | port p =>
    refine byteAt_congr ?_ (keeps_portWrite p v s).2.1 a
    obtain ⟨_, _, h, -⟩ := portWrite_frame p v s; rw [h]
  | oamDma =>
    obtain ⟨_, _, h, -⟩ := dmaFrom_frame v 256 0 s
    refine byteAt_congr ?_ ?_ a <;> simp only [oamDma, h]
  | extIo => rfl

theorem byteAt_read {s u : State} (h : ReadEffect s u) (a : Word) : byteAt u a = byteAt s a := by
  obtain ⟨_, _, _, _, _, h⟩ := h; rw [h]; rfl

theorem sameByte_read {s u : State} (h : ReadEffect s u) (a b : Word) : SameByte u a b ↔ SameByte s a b := by
  obtain ⟨_, _, _, _, _, h⟩ := h; rw [h]; rfl

/-! ## The canonical form of the four stores -/

/-- Bus accesses and changes of registers keep the four stores canonical (20_memory.md R203, R222, 10_state.md R131). -/
theorem invStep : BusClosed (fun s t => CoreInv s → CoreInv t) := by
  have vr : ∀ a s, CoreInv s → CoreInv (memRead a s).2 := by
    intro a s h
    obtain ⟨_, _, _, _, _, e⟩ := memRead_frame a s
    rw [e]; exact h
  refine ⟨fun h h' i => h' (h i), fun s a x y sp pc f h => h, vr, ?_⟩
  intro a v s h
  unfold memWrite
  cases hr : busRegion s.ramMirror a with
  | ram c =>
    have hc : isCpuCell s.ramMirror c = true := by
      rcases busRegion_cases s.ramMirror a with ⟨e1, h'⟩ | ⟨_, _, h'⟩ | ⟨_, h'⟩ | ⟨_, _, _, h'⟩ | ⟨hle, h'⟩ <;> rw [hr] at h' <;> cases h'
      cases hm : s.ramMirror <;> simp [isCpuCell] <;> omega
    obtain ⟨h1, h2, h3, h4⟩ := h
    refine ⟨?_, h2, h3, h4⟩
    simp only [cpuMemoryWf, Bool.and_eq_true] at h1 ⊢
    exact ⟨Memory.wf_memPut h1.1, Memory.all_put h1.2 hc⟩
  | cart c =>
    have hc : isCpuCell s.ramMirror c = true := by
      obtain ⟨h1, h2⟩ := busRegion_cart_ge hr
      have := a.isLt
      simp [isCpuCell]; omega
    dsimp only; split
    · obtain ⟨h1, h2, h3, h4⟩ := h
      refine ⟨?_, h2, h3, h4⟩
      simp only [cpuMemoryWf, Bool.and_eq_true] at h1 ⊢
      exact ⟨Memory.wf_memPut h1.1, Memory.all_put h1.2 hc⟩
    · exact h
  | extIo => exact h
  | oamDma =>
    have hb : ∀ p i s, CoreInv s → CoreInv (dmaByte p i s) := by
      intro p i s h
      obtain ⟨h1, h2, h3, h4⟩ := vr (joinBytes p i) s h
      exact ⟨h1, h2, Vram.oamWf_oamWrite h3, h4⟩
    have : ∀ n i s, CoreInv s → CoreInv (dmaFrom v i n s) := by
      intro n
      induction n with
      | zero => intro i s h; exact h
      | succ n ih => intro i s h; exact ih _ _ (hb _ _ _ h)
    exact this _ _ _ h
  | port p =>
    obtain ⟨h1, h2, h3, h4⟩ := h
    cases p
    case ppuCtrl =>
      show CoreInv (writeCtrl v s)
      unfold writeCtrl; dsimp only; split <;> exact ⟨h1, h2, h3, h4⟩
    case ppuScroll =>
      show CoreInv (s.setPpu (writeScroll v s.ppu)); unfold writeScroll; split <;> exact ⟨h1, h2, h3, h4⟩
    case ppuAddr =>
      show CoreInv (s.setPpu (writeAddr v s.ppu)); unfold writeAddr; split <;> exact ⟨h1, h2, h3, h4⟩
    case ppuData => exact ⟨h1, Vram.vramWf_vramWrite h2, h3, h4⟩
    case oamData => exact ⟨h1, h2, Vram.oamWf_oamWrite h3, h4⟩
    all_goals exact ⟨h1, h2, h3, h4⟩

end Sys2Proof.Laws.Closed
end

