-- ==== Sys2Proof/Laws/Render.lean ====
section
/-! SUPPORT. The compositors as folds of plotted pixels: what the frame buffer holds where one pixel of a list lands, and where
none does; a pattern pixel by division. -/

namespace Sys2Proof.Laws.Render

open Sys2Proof.Machine Sys2Proof.Safety

/-- A property that every step of a fold keeps holds after the fold. -/
theorem fold_keeps {α β} {P : α → Prop} {l : List β} {f : α → β → α} (hf : ∀ q x, P q → P (f q x)) : ∀ p, P p → P (l.foldl f p) := by
  induction l with
  | nil => intro p h; exact h
  | cons x l ih => intro p h; exact ih _ (hf _ _ h)

/-- A fold of plots at places given by f: a pixel no place names is as before, a pixel exactly one place names is what that
place plots (49_ppu_compositors.md R1307, R1313). -/
theorem fbAt_foldl {α} (f : α → Option (Int × Int × Pixel)) (l : List α) (x y : Nat) (hx : x ≤ 255) (hy : y ≤ 255) (g : Ppu → α → Ppu)
    (hg : ∀ q a, g q a = match f a with | none => q | some (u, v, px) => plot u v px q) :
    (∀ p, (∀ a ∈ l, ∀ u v px, f a = some (u, v, px) → (x : Int) ≠ u ∨ (y : Int) ≠ v) → fbAt (l.foldl g p) x y = fbAt p x y) ∧
    (∀ p, fbWf p = true → l.Nodup → ∀ a ∈ l, ∀ px, f a = some ((x : Int), (y : Int), px) → (∀ b ∈ l, b ≠ a → ∀ u v px, f b = some (u, v, px) → (x : Int) ≠ u ∨ (y : Int) ≠ v) → fbAt (l.foldl g p) x y = px) := by
  have part1 : ∀ (l : List α) p, (∀ a ∈ l, ∀ u v px, f a = some (u, v, px) → (x : Int) ≠ u ∨ (y : Int) ≠ v) → fbAt (l.foldl g p) x y = fbAt p x y := by
    intro l
    induction l with
    | nil => intro p _; rfl
    | cons a l ih =>
      intro p h
      rw [List.foldl_cons, ih _ (fun b hb => h b (List.mem_cons_of_mem _ hb)), hg]
      cases hf : f a with
      | none => rfl
      | some t => obtain ⟨u, v, px⟩ := t; exact Vram.fbAt_plot_other hx (h a List.mem_cons_self u v px hf)
  refine ⟨part1 l, ?_⟩
  induction l with
  | nil => intro p _ _ a ha; simp at ha
  | cons b l ih =>
    intro p hp hn a ha px hf ho
    rw [List.nodup_cons] at hn
    rw [List.foldl_cons]
    rcases List.mem_cons.1 ha with rfl | ha'
    · rw [part1, hg, hf]
      · exact Vram.fbAt_plot_self hp hx hy
      · intro c hc; exact ho c (List.mem_cons_of_mem _ hc) (by rintro rfl; exact hn.1 hc)
    · refine ih _ ?_ hn.2 a ha' px hf (fun c hc => ho c (List.mem_cons_of_mem _ hc))
      rw [hg]
      cases hf : f b with
      | none => exact hp
      | some t => exact Vram.fbWf_plot hp

theorem mem_tile (r c : Nat) : (r, c) ∈ tilePixels ↔ r < 8 ∧ c < 8 := by
  simp [tilePixels]

theorem tile_nodup : tilePixels.Nodup := by decide

theorem patPixel_eq (p : Ppu) (base tile r c : Nat) : patPixel p base tile r c = (vramRead p (base + 16 * tile + r)).toNat / 2 ^ (7 - c) % 2 + 2 * ((vramRead p (base + 16 * tile + 8 + r)).toNat / 2 ^ (7 - c) % 2) := by
  have h : ∀ b : Byte, ∀ k, b.toNat / 2 ^ k % 2 = if b.getLsbD k then 1 else 0 := by
    intro b k
    rw [BitVec.getLsbD, Nat.testBit, Nat.shiftRight_eq_div_pow]
    have := Nat.mod_two_eq_zero_or_one (b.toNat / 2 ^ k)
    rcases this with h | h <;> simp [h]
  rw [h, h]
  simp only [patPixel]
  split <;> split <;> rfl

/-- The colour of a palette index: the triple of the palette byte's low six bits, opaque (49_ppu_compositors.md R1302). -/
theorem paletteColor_eq (p : Ppu) (pi : Nat) {c : Rgb}
    (hc : c = Config.systemPalette (BitVec.ofNat 6 ((vramRead p (0x3F00 + pi)).toNat % 64))) :
    paletteColor p pi = { r := c.r, g := c.g, b := c.b, a := 0xFF } := by
  have : BitVec.ofNat 6 ((vramRead p (0x3F00 + pi)).toNat % 64) = (vramRead p (0x3F00 + pi)).setWidth 6 := by
    apply BitVec.eq_of_toNat_eq
    simp
  rw [hc, this]; rfl

end Sys2Proof.Laws.Render
end

