-- ==== Sys2Proof/Machine/Assembler.lean ====
section
/-! DEFINITION. The choice of a row that the assembler syntax makes (30_encoding.md R307), over operands already read from text:
the branch offset, and the zero-page form of an operand in $00-$FF. No step uses it (log 20). -/

namespace Sys2Proof.Machine

/-- An operand as a line of assembler writes it (30_encoding.md R302, R307). A number without parentheses or # does not say
whether it is a zero-page or an absolute address. -/
inductive SourceOperand where
  | none
  | a
  | immediate (n : Byte)
  | address (w : Word)
  | addressX (w : Word)
  | addressY (w : Word)
  | indirect (w : Word)
  | indirectX (n : Byte)
  | indirectY (n : Byte)
  deriving DecidableEq, Repr

/-- The instruction of a row with an operand in it. -/
def fillForm (f : OpForm) (o : Operand) : Instr :=
  match f with
  | .f1 i => i
  | .f2 g => g (o.bytes.getD 0 0)
  | .f3 g => g (joinBytes (o.bytes.getD 1 0) (o.bytes.getD 0 0))

/-- The instruction of a mnemonic and an operand, where a row of the opcode map has it (30_encoding.md R303). -/
def instrOf (m : Mnemonic) (o : Operand) : Option Instr :=
  opcodeMap.findSome? fun row =>
    let i := fillForm row.2 o
    if i.mnemonic = m ∧ i.operand = o then some i else none

/-- off8 = (target - (address of the branch + 2)) mod 256, none where the target is outside -128..+127 of that base
(30_encoding.md R307). -/
def branchOffset (addr target : Word) : Option Byte :=
  let d := (target - (addr + 2)).toInt
  if -128 ≤ d ∧ d ≤ 127 then some (BitVec.ofInt 8 d) else none

/-- The zero-page form of an operand in $00-$FF where there is one, else the absolute form (30_encoding.md R307). -/
def shortest (m : Mnemonic) (zeroPage : Byte → Operand) (absolute : Word → Operand) (w : Word) : Option Instr :=
  if w.toNat ≤ 0xFF then (instrOf m (zeroPage (lowByte w))).or (instrOf m (absolute w)) else instrOf m (absolute w)

/-- The instruction that a line of assembler at an address stands for (30_encoding.md R307). -/
def assemble (addr : Word) (m : Mnemonic) (o : SourceOperand) : Option Instr :=
  match o with
  | .none => (instrOf m .imp).or (instrOf m .acc)
  | .a => instrOf m .acc
  | .immediate n => instrOf m (.imm n)
  | .address w =>
    if (legalModes m).contains .rel then (branchOffset addr w).bind fun n => instrOf m (.rel n)
    else shortest m .zp .abs w
  | .addressX w => shortest m .zpx .abx w
  | .addressY w => shortest m .zpy .aby w
  | .indirect w => instrOf m (.ind w)
  | .indirectX n => instrOf m (.izx n)
  | .indirectY n => instrOf m (.izy n)

end Sys2Proof.Machine
end

