-- ==== Sys2Proof/Tests/Slice0.lean ====
section
/-! SUPPORT. The model's own tests: the well-formedness smoke, decoding from words written out of the spec, one-step vectors of
95_test_vectors.md, and for every statement with hypotheses a witness that meets them. -/

namespace Sys2Proof.Tests

open Sys2Proof.Machine Sys2Proof.Safety

/-! ## Well-formedness: a mode the mnemonic's rule does not list is refused -/

/-- One mode per mnemonic of 41_logical.md that its rule does not list. -/
theorem test_illFormed_logical : ∀ x ∈ ([(.ora, .zpy 0x5A), (.and, .zpy 0x5A), (.eor, .zpy 0x5A), (.bit, .imm 0x5A)] : List (Mnemonic × Operand)),
    wellFormed x.1 x.2 = false := by decide

/-- One mode per mnemonic of 42_shift.md that its rule does not list. -/
theorem test_illFormed_shift : ∀ x ∈ ([(.asl, .imm 0x5A), (.lsr, .imm 0x5A), (.rol, .imm 0x5A), (.ror, .imm 0x5A)] : List (Mnemonic × Operand)),
    wellFormed x.1 x.2 = false := by decide

/-- One mode per mnemonic of 43_branch.md that its rule does not list. -/
theorem test_illFormed_branch : ∀ x ∈ ([(.bpl, .imm 0x5A), (.bmi, .imm 0x5A), (.bvc, .imm 0x5A), (.bvs, .imm 0x5A),
      (.bcc, .imm 0x5A), (.bcs, .imm 0x5A), (.bne, .imm 0x5A), (.beq, .imm 0x5A)] : List (Mnemonic × Operand)),
    wellFormed x.1 x.2 = false := by decide

/-- One mode per mnemonic of 44_flags.md that its rule does not list. -/
theorem test_illFormed_flags : ∀ x ∈ ([(.clc, .imm 0x5A), (.sec, .imm 0x5A), (.cli, .imm 0x5A), (.sei, .imm 0x5A),
      (.clv, .imm 0x5A), (.cld, .imm 0x5A), (.sed, .imm 0x5A)] : List (Mnemonic × Operand)),
    wellFormed x.1 x.2 = false := by decide

/-- One mode per mnemonic of 45_arith.md that its rule does not list. -/
theorem test_illFormed_arith : ∀ x ∈ ([(.adc, .zpy 0x5A), (.sbc, .zpy 0x5A), (.cmp, .zpy 0x5A), (.cpx, .zpy 0x5A),
      (.cpy, .zpy 0x5A), (.inc, .imm 0x5A), (.dec, .imm 0x5A), (.inx, .imm 0x5A),
      (.iny, .imm 0x5A), (.dex, .imm 0x5A), (.dey, .imm 0x5A)] : List (Mnemonic × Operand)),
    wellFormed x.1 x.2 = false := by decide

/-- One mode per mnemonic of 46_load_store.md that its rule does not list. -/
theorem test_illFormed_loadStore : ∀ x ∈ ([(.lda, .zpy 0x5A), (.ldx, .zpx 0x5A), (.ldy, .zpy 0x5A), (.sta, .imm 0x5A),
      (.stx, .imm 0x5A), (.sty, .imm 0x5A), (.tax, .imm 0x5A), (.tay, .imm 0x5A),
      (.txa, .imm 0x5A), (.tya, .imm 0x5A), (.tsx, .imm 0x5A), (.txs, .imm 0x5A)] : List (Mnemonic × Operand)),
    wellFormed x.1 x.2 = false := by decide

/-- One mode per mnemonic of 47_stack_jump.md that its rule does not list. -/
theorem test_illFormed_stackJump : ∀ x ∈ ([(.pha, .imm 0x5A), (.php, .imm 0x5A), (.pla, .imm 0x5A), (.plp, .imm 0x5A),
      (.jmp, .imm 0x5A), (.jsr, .imm 0x5A), (.rts, .imm 0x5A), (.rti, .imm 0x5A),
      (.brk, .imm 0x5A), (.nop, .imm 0x5A)] : List (Mnemonic × Operand)),
    wellFormed x.1 x.2 = false := by decide

/-- The modes that stores, STX, LDX, LDY and JMP lack. -/
theorem test_illFormed_neighbours : ∀ x ∈ ([(.sta, .imm 0), (.stx, .zpx 0), (.stx, .aby 0), (.sty, .zpy 0), (.ldx, .zpx 0),
      (.ldx, .abx 0), (.ldy, .zpy 0), (.ldy, .aby 0), (.jmp, .izx 0), (.jsr, .ind 0), (.bit, .imm 0), (.inc, .acc)] :
      List (Mnemonic × Operand)), wellFormed x.1 x.2 = false := by decide

/-! ## Decoding: the bytes are those of 30_encoding.md R303 and of each rule's own "Encodings" line -/

/-- Every row of 41_logical.md. -/
theorem test_decode_logical :
    decode [0x09, 0x5A] = .ok (.oraImm 0x5A) [] ∧
    decode [0x05, 0x5A] = .ok (.oraZp 0x5A) [] ∧
    decode [0x15, 0x5A] = .ok (.oraZpx 0x5A) [] ∧
    decode [0x0D, 0x34, 0x12] = .ok (.oraAbs 0x1234) [] ∧
    decode [0x1D, 0x34, 0x12] = .ok (.oraAbx 0x1234) [] ∧
    decode [0x19, 0x34, 0x12] = .ok (.oraAby 0x1234) [] ∧
    decode [0x01, 0x5A] = .ok (.oraIzx 0x5A) [] ∧
    decode [0x11, 0x5A] = .ok (.oraIzy 0x5A) [] ∧
    decode [0x29, 0x5A] = .ok (.andImm 0x5A) [] ∧
    decode [0x25, 0x5A] = .ok (.andZp 0x5A) [] ∧
    decode [0x35, 0x5A] = .ok (.andZpx 0x5A) [] ∧
    decode [0x2D, 0x34, 0x12] = .ok (.andAbs 0x1234) [] ∧
    decode [0x3D, 0x34, 0x12] = .ok (.andAbx 0x1234) [] ∧
    decode [0x39, 0x34, 0x12] = .ok (.andAby 0x1234) [] ∧
    decode [0x21, 0x5A] = .ok (.andIzx 0x5A) [] ∧
    decode [0x31, 0x5A] = .ok (.andIzy 0x5A) [] ∧
    decode [0x49, 0x5A] = .ok (.eorImm 0x5A) [] ∧
    decode [0x45, 0x5A] = .ok (.eorZp 0x5A) [] ∧
    decode [0x55, 0x5A] = .ok (.eorZpx 0x5A) [] ∧
    decode [0x4D, 0x34, 0x12] = .ok (.eorAbs 0x1234) [] ∧
    decode [0x5D, 0x34, 0x12] = .ok (.eorAbx 0x1234) [] ∧
    decode [0x59, 0x34, 0x12] = .ok (.eorAby 0x1234) [] ∧
    decode [0x41, 0x5A] = .ok (.eorIzx 0x5A) [] ∧
    decode [0x51, 0x5A] = .ok (.eorIzy 0x5A) [] ∧
    decode [0x24, 0x5A] = .ok (.bitZp 0x5A) [] ∧
    decode [0x2C, 0x34, 0x12] = .ok (.bitAbs 0x1234) [] := by
  and_intros <;> rfl

/-- Every row of 42_shift.md. -/
theorem test_decode_shift :
    decode [0x0A] = .ok .aslAcc [] ∧
    decode [0x06, 0x5A] = .ok (.aslZp 0x5A) [] ∧
    decode [0x16, 0x5A] = .ok (.aslZpx 0x5A) [] ∧
    decode [0x0E, 0x34, 0x12] = .ok (.aslAbs 0x1234) [] ∧
    decode [0x1E, 0x34, 0x12] = .ok (.aslAbx 0x1234) [] ∧
    decode [0x4A] = .ok .lsrAcc [] ∧
    decode [0x46, 0x5A] = .ok (.lsrZp 0x5A) [] ∧
    decode [0x56, 0x5A] = .ok (.lsrZpx 0x5A) [] ∧
    decode [0x4E, 0x34, 0x12] = .ok (.lsrAbs 0x1234) [] ∧
    decode [0x5E, 0x34, 0x12] = .ok (.lsrAbx 0x1234) [] ∧
    decode [0x2A] = .ok .rolAcc [] ∧
    decode [0x26, 0x5A] = .ok (.rolZp 0x5A) [] ∧
    decode [0x36, 0x5A] = .ok (.rolZpx 0x5A) [] ∧
    decode [0x2E, 0x34, 0x12] = .ok (.rolAbs 0x1234) [] ∧
    decode [0x3E, 0x34, 0x12] = .ok (.rolAbx 0x1234) [] ∧
    decode [0x6A] = .ok .rorAcc [] ∧
    decode [0x66, 0x5A] = .ok (.rorZp 0x5A) [] ∧
    decode [0x76, 0x5A] = .ok (.rorZpx 0x5A) [] ∧
    decode [0x6E, 0x34, 0x12] = .ok (.rorAbs 0x1234) [] ∧
    decode [0x7E, 0x34, 0x12] = .ok (.rorAbx 0x1234) [] := by
  and_intros <;> rfl

/-- Every row of 43_branch.md. -/
theorem test_decode_branch :
    decode [0x10, 0x5A] = .ok (.bpl 0x5A) [] ∧
    decode [0x30, 0x5A] = .ok (.bmi 0x5A) [] ∧
    decode [0x50, 0x5A] = .ok (.bvc 0x5A) [] ∧
    decode [0x70, 0x5A] = .ok (.bvs 0x5A) [] ∧
    decode [0x90, 0x5A] = .ok (.bcc 0x5A) [] ∧
    decode [0xB0, 0x5A] = .ok (.bcs 0x5A) [] ∧
    decode [0xD0, 0x5A] = .ok (.bne 0x5A) [] ∧
    decode [0xF0, 0x5A] = .ok (.beq 0x5A) [] := by
  and_intros <;> rfl

/-- Every row of 44_flags.md. -/
theorem test_decode_flags :
    decode [0x18] = .ok .clc [] ∧
    decode [0x38] = .ok .sec [] ∧
    decode [0x58] = .ok .cli [] ∧
    decode [0x78] = .ok .sei [] ∧
    decode [0xB8] = .ok .clv [] ∧
    decode [0xD8] = .ok .cld [] ∧
    decode [0xF8] = .ok .sed [] := by
  and_intros <;> rfl

/-- Every row of 45_arith.md. -/
theorem test_decode_arith :
    decode [0x69, 0x5A] = .ok (.adcImm 0x5A) [] ∧
    decode [0x65, 0x5A] = .ok (.adcZp 0x5A) [] ∧
    decode [0x75, 0x5A] = .ok (.adcZpx 0x5A) [] ∧
    decode [0x6D, 0x34, 0x12] = .ok (.adcAbs 0x1234) [] ∧
    decode [0x7D, 0x34, 0x12] = .ok (.adcAbx 0x1234) [] ∧
    decode [0x79, 0x34, 0x12] = .ok (.adcAby 0x1234) [] ∧
    decode [0x61, 0x5A] = .ok (.adcIzx 0x5A) [] ∧
    decode [0x71, 0x5A] = .ok (.adcIzy 0x5A) [] ∧
    decode [0xE9, 0x5A] = .ok (.sbcImm 0x5A) [] ∧
    decode [0xE5, 0x5A] = .ok (.sbcZp 0x5A) [] ∧
    decode [0xF5, 0x5A] = .ok (.sbcZpx 0x5A) [] ∧
    decode [0xED, 0x34, 0x12] = .ok (.sbcAbs 0x1234) [] ∧
    decode [0xFD, 0x34, 0x12] = .ok (.sbcAbx 0x1234) [] ∧
    decode [0xF9, 0x34, 0x12] = .ok (.sbcAby 0x1234) [] ∧
    decode [0xE1, 0x5A] = .ok (.sbcIzx 0x5A) [] ∧
    decode [0xF1, 0x5A] = .ok (.sbcIzy 0x5A) [] ∧
    decode [0xC9, 0x5A] = .ok (.cmpImm 0x5A) [] ∧
    decode [0xC5, 0x5A] = .ok (.cmpZp 0x5A) [] ∧
    decode [0xD5, 0x5A] = .ok (.cmpZpx 0x5A) [] ∧
    decode [0xCD, 0x34, 0x12] = .ok (.cmpAbs 0x1234) [] ∧
    decode [0xDD, 0x34, 0x12] = .ok (.cmpAbx 0x1234) [] ∧
    decode [0xD9, 0x34, 0x12] = .ok (.cmpAby 0x1234) [] ∧
    decode [0xC1, 0x5A] = .ok (.cmpIzx 0x5A) [] ∧
    decode [0xD1, 0x5A] = .ok (.cmpIzy 0x5A) [] ∧
    decode [0xE0, 0x5A] = .ok (.cpxImm 0x5A) [] ∧
    decode [0xE4, 0x5A] = .ok (.cpxZp 0x5A) [] ∧
    decode [0xEC, 0x34, 0x12] = .ok (.cpxAbs 0x1234) [] ∧
    decode [0xC0, 0x5A] = .ok (.cpyImm 0x5A) [] ∧
    decode [0xC4, 0x5A] = .ok (.cpyZp 0x5A) [] ∧
    decode [0xCC, 0x34, 0x12] = .ok (.cpyAbs 0x1234) [] ∧
    decode [0xE6, 0x5A] = .ok (.incZp 0x5A) [] ∧
    decode [0xF6, 0x5A] = .ok (.incZpx 0x5A) [] ∧
    decode [0xEE, 0x34, 0x12] = .ok (.incAbs 0x1234) [] ∧
    decode [0xFE, 0x34, 0x12] = .ok (.incAbx 0x1234) [] ∧
    decode [0xC6, 0x5A] = .ok (.decZp 0x5A) [] ∧
    decode [0xD6, 0x5A] = .ok (.decZpx 0x5A) [] ∧
    decode [0xCE, 0x34, 0x12] = .ok (.decAbs 0x1234) [] ∧
    decode [0xDE, 0x34, 0x12] = .ok (.decAbx 0x1234) [] ∧
    decode [0xE8] = .ok .inx [] ∧
    decode [0xC8] = .ok .iny [] ∧
    decode [0xCA] = .ok .dex [] ∧
    decode [0x88] = .ok .dey [] := by
  and_intros <;> rfl

/-- Every row of 46_load_store.md. -/
theorem test_decode_loadStore :
    decode [0xA9, 0x5A] = .ok (.ldaImm 0x5A) [] ∧
    decode [0xA5, 0x5A] = .ok (.ldaZp 0x5A) [] ∧
    decode [0xB5, 0x5A] = .ok (.ldaZpx 0x5A) [] ∧
    decode [0xAD, 0x34, 0x12] = .ok (.ldaAbs 0x1234) [] ∧
    decode [0xBD, 0x34, 0x12] = .ok (.ldaAbx 0x1234) [] ∧
    decode [0xB9, 0x34, 0x12] = .ok (.ldaAby 0x1234) [] ∧
    decode [0xA1, 0x5A] = .ok (.ldaIzx 0x5A) [] ∧
    decode [0xB1, 0x5A] = .ok (.ldaIzy 0x5A) [] ∧
    decode [0xA2, 0x5A] = .ok (.ldxImm 0x5A) [] ∧
    decode [0xA6, 0x5A] = .ok (.ldxZp 0x5A) [] ∧
    decode [0xB6, 0x5A] = .ok (.ldxZpy 0x5A) [] ∧
    decode [0xAE, 0x34, 0x12] = .ok (.ldxAbs 0x1234) [] ∧
    decode [0xBE, 0x34, 0x12] = .ok (.ldxAby 0x1234) [] ∧
    decode [0xA0, 0x5A] = .ok (.ldyImm 0x5A) [] ∧
    decode [0xA4, 0x5A] = .ok (.ldyZp 0x5A) [] ∧
    decode [0xB4, 0x5A] = .ok (.ldyZpx 0x5A) [] ∧
    decode [0xAC, 0x34, 0x12] = .ok (.ldyAbs 0x1234) [] ∧
    decode [0xBC, 0x34, 0x12] = .ok (.ldyAbx 0x1234) [] ∧
    decode [0x85, 0x5A] = .ok (.staZp 0x5A) [] ∧
    decode [0x95, 0x5A] = .ok (.staZpx 0x5A) [] ∧
    decode [0x8D, 0x34, 0x12] = .ok (.staAbs 0x1234) [] ∧
    decode [0x9D, 0x34, 0x12] = .ok (.staAbx 0x1234) [] ∧
    decode [0x99, 0x34, 0x12] = .ok (.staAby 0x1234) [] ∧
    decode [0x81, 0x5A] = .ok (.staIzx 0x5A) [] ∧
    decode [0x91, 0x5A] = .ok (.staIzy 0x5A) [] ∧
    decode [0x86, 0x5A] = .ok (.stxZp 0x5A) [] ∧
    decode [0x96, 0x5A] = .ok (.stxZpy 0x5A) [] ∧
    decode [0x8E, 0x34, 0x12] = .ok (.stxAbs 0x1234) [] ∧
    decode [0x84, 0x5A] = .ok (.styZp 0x5A) [] ∧
    decode [0x94, 0x5A] = .ok (.styZpx 0x5A) [] ∧
    decode [0x8C, 0x34, 0x12] = .ok (.styAbs 0x1234) [] ∧
    decode [0xAA] = .ok .tax [] ∧
    decode [0xA8] = .ok .tay [] ∧
    decode [0x8A] = .ok .txa [] ∧
    decode [0x98] = .ok .tya [] ∧
    decode [0xBA] = .ok .tsx [] ∧
    decode [0x9A] = .ok .txs [] := by
  and_intros <;> rfl

/-- Every row of 47_stack_jump.md. -/
theorem test_decode_stackJump :
    decode [0x48] = .ok .pha [] ∧
    decode [0x08] = .ok .php [] ∧
    decode [0x68] = .ok .pla [] ∧
    decode [0x28] = .ok .plp [] ∧
    decode [0x4C, 0x34, 0x12] = .ok (.jmpAbs 0x1234) [] ∧
    decode [0x6C, 0x34, 0x12] = .ok (.jmpInd 0x1234) [] ∧
    decode [0x20, 0x34, 0x12] = .ok (.jsr 0x1234) [] ∧
    decode [0x60] = .ok .rts [] ∧
    decode [0x40] = .ok .rti [] ∧
    decode [0x00] = .ok .brk [] ∧
    decode [0xEA] = .ok .nop [] := by
  and_intros <;> rfl

/-- One row of each family, bit by bit: aaa bbb cc of the opcode map, low operand byte first (30_encoding.md R302, R303). -/
theorem test_decode_bits :
    decode [0b01010001#8, 0b01011010#8] = .ok (.eorIzy 0x5A) [] ∧
    decode [0b00110110#8, 0b01011010#8] = .ok (.rolZpx 0x5A) [] ∧
    decode [0b01110000#8, 0b01011010#8] = .ok (.bvs 0x5A) [] ∧
    decode [0b10111000#8] = .ok .clv [] ∧
    decode [0b11101101#8, 0b00110100#8, 0b00010010#8] = .ok (.sbcAbs 0x1234) [] ∧
    decode [0b10000100#8, 0b01011010#8] = .ok (.styZp 0x5A) [] ∧
    decode [0b01000000#8] = .ok .rti [] := by
  and_intros <;> rfl

/-- Undefined bytes, no bytes, and too few bytes are refused by name (30_encoding.md R304). -/
theorem test_decode_refuses :
    decode [0x02, 0, 0] = .undefinedOpcode 0x02 ∧ decode [0x9E, 0, 0] = .undefinedOpcode 0x9E ∧
    decode [0xFF] = .undefinedOpcode 0xFF ∧ decode [] = .truncated ∧ decode [0xA9] = .truncated ∧
    decode [0x8D, 0x00] = .truncated := by decide

/-- Words numbered as opcode_table.json numbers them, with and without operand bits. -/
theorem test_decodeTableWord :
    decodeTableWord 8 0xA9 = some (.ldaImm 0) ∧ decodeTableWord 24 0x12348D = some (.staAbs 0x1234) ∧
    decodeTableWord 16 0x5AA9 = some (.ldaImm 0x5A) ∧ decodeTableWord 8 0x02 = none := by decide

/-- A word placed at the reset state's PC is what the next step runs, and an undefined one faults (log 12). -/
theorem test_withFetchWord :
    stepEvent (State.reset.withFetchWord 24 0x123420) =
      .instr (.jsr 0x1234) ((State.reset.withFetchWord 24 0x123420).setPc 3) ∧
    step (State.reset.withFetchWord 8 0x02) = .fault (.undefinedOpcode 0x02 0) := ⟨rfl, rfl⟩

/-- Lines of the programs and vectors of 95_test_vectors.md, with the bytes it gives them. -/
theorem test_assemble :
    (assemble 0x8000 .ldx (.addressY 0x00FF)).map encode = some [0xB6, 0xFF] ∧
    (assemble 0x8000 .lda (.addressY 0x02FF)).map encode = some [0xB9, 0xFF, 0x02] ∧
    (assemble 0x8000 .sty (.address 0x0200)).map encode = some [0x8C, 0x00, 0x02] ∧
    (assemble 0x8000 .asl .none).map encode = some [0x0A] ∧
    (assemble 0x8000 .lda (.indirectX 0xFE)).map encode = some [0xA1, 0xFE] ∧
    (assemble 0x8000 .bpl (.address 0x8000)).map encode = some [0x10, 0xFE] ∧
    assemble 0x8000 .bpl (.address 0x8082) = none ∧ assemble 0x8000 .sta (.immediate 0x10) = none := by decide +kernel

/-! ## Vectors of 95_test_vectors.md, one step each -/

/-- A small state: PC = $8000, the status byte as given, memory the cells given, every PPU register and draw 0. -/
def cpu (cells : List (Nat × Byte)) (a x y sp p : Byte) : State :=
  { a := a, x := x, y := y, sp := sp, pc := 0x8000, flags := unpackP p, fault := none, nmiPending := false,
    irqLine := false, mem := cells,
    ppu := { vram := [], oam := [], mirroring := .vertical, ctrl := 0, mask := 0, vblank := false, sprite0Hit := false,
             spriteOverflow := false, oamAddr := 0, vramAddr := 0, readBuffer := 0, scrollX := 0, scrollY := 0, w := false,
             scanline := 0, fb := [] },
    ramMirror := false, cartWritable := true, draws := 0 }

/-- The registers A, X, Y, S, PC, PackP(1) after a step that answers a next state, and the CPU memory cells watched. -/
def seen (r : Host.Outcome State Fault Refusal) (watch : List Nat) : Option (List Nat) :=
  match r with
  | .next t =>
    some ([t.a.toNat, t.x.toNat, t.y.toNat, t.sp.toNat, t.pc.toNat, (packP true t.flags).toNat] ++
      watch.map fun k => (memGet t.mem k).toNat)
  | _ => none

/-- cpu with no cells: S = $FD and everything else 0. -/
def plain : State := cpu [] 0 0 0 0xFD 0

/-- `LDA $F0,X` (95_test_vectors.md V-ADDR-1). -/
theorem test_ldaZpx_1 :
    seen (step (cpu [(0x0010, 0x77), (0x0110, 0x11), (0x8000, 0xB5), (0x8001, 0xF0)] 0x00 0x20 0x00 0xFD 0x30)) [] =
      some [0x77, 0x20, 0x00, 0xFD, 0x8002, 0x30] := by decide

/-- `LDX $FF,Y` (95_test_vectors.md V-ADDR-2). -/
theorem test_ldxZpy_1 :
    seen (step (cpu [(0x0001, 0x66), (0x8000, 0xB6), (0x8001, 0xFF)] 0x00 0x00 0x02 0xFD 0x30)) [] =
      some [0x00, 0x66, 0x02, 0xFD, 0x8002, 0x30] := by decide

/-- `LDA $FFF0,X` (95_test_vectors.md V-ADDR-3). -/
theorem test_ldaAbx_1 :
    seen (step (cpu [(0x0010, 0x55), (0x8000, 0xBD), (0x8001, 0xF0), (0x8002, 0xFF)] 0x00 0x20 0x00 0xFD 0x30)) [] =
      some [0x55, 0x20, 0x00, 0xFD, 0x8003, 0x30] := by decide

/-- `LDA $02FF,Y` (95_test_vectors.md V-ADDR-4). -/
theorem test_ldaAby_1 :
    seen (step (cpu [(0x0300, 0x44), (0x8000, 0xB9), (0x8001, 0xFF), (0x8002, 0x02)] 0x00 0x00 0x01 0xFD 0x30)) [] =
      some [0x44, 0x00, 0x01, 0xFD, 0x8003, 0x30] := by decide

/-- `LDA ($FF),Y` (95_test_vectors.md V-ADDR-5). -/
theorem test_ldaIzy_1 :
    seen (step (cpu [(0x0000, 0x12), (0x00FF, 0x34), (0x0100, 0x99), (0x1234, 0xAB), (0x8000, 0xB1), (0x8001, 0xFF)] 0x00 0x00 0x00 0xFD 0x30)) [] =
      some [0xAB, 0x00, 0x00, 0xFD, 0x8002, 0xB0] := by decide

/-- `LDA ($20),Y` (95_test_vectors.md V-ADDR-6). -/
theorem test_ldaIzy_2 :
    seen (step (cpu [(0x0020, 0xF0), (0x0021, 0x12), (0x1310, 0x5A), (0x8000, 0xB1), (0x8001, 0x20)] 0x00 0x00 0x20 0xFD 0x30)) [] =
      some [0x5A, 0x00, 0x20, 0xFD, 0x8002, 0x30] := by decide

/-- `LDA ($FE,X)` (95_test_vectors.md V-ADDR-7). -/
theorem test_ldaIzx_1 :
    seen (step (cpu [(0x0000, 0x03), (0x00FF, 0x00), (0x0300, 0x3C), (0x8000, 0xA1), (0x8001, 0xFE)] 0x00 0x01 0x00 0xFD 0x30)) [] =
      some [0x3C, 0x01, 0x00, 0xFD, 0x8002, 0x30] := by decide

/-- `JMP ($02FF)` (95_test_vectors.md V-ADDR-8). -/
theorem test_jmpInd_1 :
    seen (step (cpu [(0x0200, 0x90), (0x02FF, 0x00), (0x0300, 0x80), (0x8000, 0x6C), (0x8001, 0xFF), (0x8002, 0x02)] 0x00 0x00 0x00 0xFD 0x30)) [] =
      some [0x00, 0x00, 0x00, 0xFD, 0x9000, 0x30] := by decide

/-- `LDA $1234` (95_test_vectors.md V-ADDR-9). -/
theorem test_ldaAbs_1 :
    seen (step (cpu [(0x1234, 0x80), (0x8000, 0xAD), (0x8001, 0x34), (0x8002, 0x12)] 0x00 0x00 0x00 0xFD 0x30)) [] =
      some [0x80, 0x00, 0x00, 0xFD, 0x8003, 0xB0] := by decide

/-- `LDA $10` (95_test_vectors.md V-ADDR-10). -/
theorem test_ldaZp_1 :
    seen (step (cpu [(0x0010, 0x00), (0x8000, 0xA5), (0x8001, 0x10)] 0xFF 0x00 0x00 0xFD 0x30)) [] =
      some [0x00, 0x00, 0x00, 0xFD, 0x8002, 0x32] := by decide

/-- `ORA #$0F` (95_test_vectors.md V-LOG-1). -/
theorem test_oraImm_1 :
    seen (step (cpu [(0x8000, 0x09), (0x8001, 0x0F)] 0xF0 0x00 0x00 0xFD 0x30)) [] =
      some [0xFF, 0x00, 0x00, 0xFD, 0x8002, 0xB0] := by decide

/-- `AND #$0F` (95_test_vectors.md V-LOG-3). -/
theorem test_andImm_1 :
    seen (step (cpu [(0x8000, 0x29), (0x8001, 0x0F)] 0xF0 0x00 0x00 0xFD 0x30)) [] =
      some [0x00, 0x00, 0x00, 0xFD, 0x8002, 0x32] := by decide

/-- `EOR #$80` (95_test_vectors.md V-LOG-6). -/
theorem test_eorImm_1 :
    seen (step (cpu [(0x8000, 0x49), (0x8001, 0x80)] 0x01 0x00 0x00 0xFD 0x30)) [] =
      some [0x81, 0x00, 0x00, 0xFD, 0x8002, 0xB0] := by decide

/-- `BIT $10` (95_test_vectors.md V-LOG-7). -/
theorem test_bitZp_1 :
    seen (step (cpu [(0x0010, 0xC0), (0x8000, 0x24), (0x8001, 0x10)] 0x01 0x00 0x00 0xFD 0x30)) [] =
      some [0x01, 0x00, 0x00, 0xFD, 0x8002, 0xF2] := by decide

/-- `BIT $10` (95_test_vectors.md V-LOG-8). -/
theorem test_bitZp_2 :
    seen (step (cpu [(0x0010, 0x7F), (0x8000, 0x24), (0x8001, 0x10)] 0x40 0x00 0x00 0xFD 0xB0)) [] =
      some [0x40, 0x00, 0x00, 0xFD, 0x8002, 0x70] := by decide

/-- `ASL A` (95_test_vectors.md V-SHIFT-1). -/
theorem test_aslAcc_1 :
    seen (step (cpu [(0x8000, 0x0A)] 0x80 0x00 0x00 0xFD 0x30)) [] =
      some [0x00, 0x00, 0x00, 0xFD, 0x8001, 0x33] := by decide

/-- `ASL A` (95_test_vectors.md V-SHIFT-2). -/
theorem test_aslAcc_2 :
    seen (step (cpu [(0x8000, 0x0A)] 0x40 0x00 0x00 0xFD 0x30)) [] =
      some [0x80, 0x00, 0x00, 0xFD, 0x8001, 0xB0] := by decide

/-- `ASL $10` (95_test_vectors.md V-SHIFT-3). -/
theorem test_aslZp_1 :
    seen (step (cpu [(0x0010, 0x81), (0x8000, 0x06), (0x8001, 0x10)] 0x00 0x00 0x00 0xFD 0x30)) [0x0010] =
      some [0x00, 0x00, 0x00, 0xFD, 0x8002, 0x31, 0x02] := by decide

/-- `LSR A` (95_test_vectors.md V-SHIFT-4). -/
theorem test_lsrAcc_1 :
    seen (step (cpu [(0x8000, 0x4A)] 0x01 0x00 0x00 0xFD 0x30)) [] =
      some [0x00, 0x00, 0x00, 0xFD, 0x8001, 0x33] := by decide

/-- `LSR $10` (95_test_vectors.md V-SHIFT-5). -/
theorem test_lsrZp_1 :
    seen (step (cpu [(0x0010, 0xFE), (0x8000, 0x46), (0x8001, 0x10)] 0x00 0x00 0x00 0xFD 0xB0)) [0x0010] =
      some [0x00, 0x00, 0x00, 0xFD, 0x8002, 0x30, 0x7F] := by decide

/-- `ROL A` (95_test_vectors.md V-SHIFT-6). -/
theorem test_rolAcc_1 :
    seen (step (cpu [(0x8000, 0x2A)] 0x80 0x00 0x00 0xFD 0x30)) [] =
      some [0x00, 0x00, 0x00, 0xFD, 0x8001, 0x33] := by decide

/-- `ROL A` (95_test_vectors.md V-SHIFT-7). -/
theorem test_rolAcc_2 :
    seen (step (cpu [(0x8000, 0x2A)] 0x80 0x00 0x00 0xFD 0x31)) [] =
      some [0x01, 0x00, 0x00, 0xFD, 0x8001, 0x31] := by decide

/-- `ROR A` (95_test_vectors.md V-SHIFT-8). -/
theorem test_rorAcc_1 :
    seen (step (cpu [(0x8000, 0x6A)] 0x01 0x00 0x00 0xFD 0x30)) [] =
      some [0x00, 0x00, 0x00, 0xFD, 0x8001, 0x33] := by decide

/-- `ROR A` (95_test_vectors.md V-SHIFT-9). -/
theorem test_rorAcc_2 :
    seen (step (cpu [(0x8000, 0x6A)] 0x00 0x00 0x00 0xFD 0x31)) [] =
      some [0x80, 0x00, 0x00, 0xFD, 0x8001, 0xB0] := by decide

/-- `ROR $00FF,X` (95_test_vectors.md V-SHIFT-10). -/
theorem test_rorAbx_1 :
    seen (step (cpu [(0x0100, 0x02), (0x8000, 0x7E), (0x8001, 0xFF)] 0x00 0x01 0x00 0xFD 0x31)) [0x0100] =
      some [0x00, 0x01, 0x00, 0xFD, 0x8003, 0xB0, 0x81] := by decide

/-- `BPL $8000` (95_test_vectors.md V-BR-1). -/
theorem test_bpl_1 :
    seen (step (cpu [(0x8000, 0x10), (0x8001, 0xFE)] 0x00 0x00 0x00 0xFD 0x30)) [] =
      some [0x00, 0x00, 0x00, 0xFD, 0x8000, 0x30] := by decide

/-- `BPL $8000` (95_test_vectors.md V-BR-2). -/
theorem test_bpl_2 :
    seen (step (cpu [(0x8000, 0x10), (0x8001, 0xFE)] 0x00 0x00 0x00 0xFD 0xB0)) [] =
      some [0x00, 0x00, 0x00, 0xFD, 0x8002, 0xB0] := by decide

/-- `BMI $8081` (95_test_vectors.md V-BR-3). -/
theorem test_bmi_1 :
    seen (step (cpu [(0x8000, 0x30), (0x8001, 0x7F)] 0x00 0x00 0x00 0xFD 0xB0)) [] =
      some [0x00, 0x00, 0x00, 0xFD, 0x8081, 0xB0] := by decide

/-- `BVC $7F82` (95_test_vectors.md V-BR-4). -/
theorem test_bvc_1 :
    seen (step (cpu [(0x8000, 0x50), (0x8001, 0x80)] 0x00 0x00 0x00 0xFD 0x30)) [] =
      some [0x00, 0x00, 0x00, 0xFD, 0x7F82, 0x30] := by decide

/-- `BVS $8012` (95_test_vectors.md V-BR-5). -/
theorem test_bvs_1 :
    seen (step (cpu [(0x8000, 0x70), (0x8001, 0x10)] 0x00 0x00 0x00 0xFD 0x30)) [] =
      some [0x00, 0x00, 0x00, 0xFD, 0x8002, 0x30] := by decide

/-- `BCC $8004` (95_test_vectors.md V-BR-6). -/
theorem test_bcc_1 :
    seen (step (cpu [(0x8000, 0x90), (0x8001, 0x02)] 0x00 0x00 0x00 0xFD 0x30)) [] =
      some [0x00, 0x00, 0x00, 0xFD, 0x8004, 0x30] := by decide

/-- `BCS $8004` (95_test_vectors.md V-BR-7). -/
theorem test_bcs_1 :
    seen (step (cpu [(0x8000, 0xB0), (0x8001, 0x02)] 0x00 0x00 0x00 0xFD 0x30)) [] =
      some [0x00, 0x00, 0x00, 0xFD, 0x8002, 0x30] := by decide

/-- `BNE $8002` (95_test_vectors.md V-BR-8). -/
theorem test_bne_1 :
    seen (step (cpu [(0x8000, 0xD0)] 0x00 0x00 0x00 0xFD 0x30)) [] =
      some [0x00, 0x00, 0x00, 0xFD, 0x8002, 0x30] := by decide

/-- `BEQ $7FFE` (95_test_vectors.md V-BR-9). -/
theorem test_beq_1 :
    seen (step (cpu [(0x8000, 0xF0), (0x8001, 0xFC)] 0x00 0x00 0x00 0xFD 0x32)) [] =
      some [0x00, 0x00, 0x00, 0xFD, 0x7FFE, 0x32] := by decide

/-- `CLC` (95_test_vectors.md V-FLAG-1). -/
theorem test_clc_1 :
    seen (step (cpu [(0x8000, 0x18)] 0x00 0x00 0x00 0xFD 0xFF)) [] =
      some [0x00, 0x00, 0x00, 0xFD, 0x8001, 0xFE] := by decide

/-- `SEC` (95_test_vectors.md V-FLAG-2). -/
theorem test_sec_1 :
    seen (step (cpu [(0x8000, 0x38)] 0x00 0x00 0x00 0xFD 0x30)) [] =
      some [0x00, 0x00, 0x00, 0xFD, 0x8001, 0x31] := by decide

/-- `CLI` (95_test_vectors.md V-FLAG-3). -/
theorem test_cli_1 :
    seen (step (cpu [(0x8000, 0x58)] 0x00 0x00 0x00 0xFD 0x34)) [] =
      some [0x00, 0x00, 0x00, 0xFD, 0x8001, 0x30] := by decide

/-- `SEI` (95_test_vectors.md V-FLAG-4). -/
theorem test_sei_1 :
    seen (step (cpu [(0x8000, 0x78)] 0x00 0x00 0x00 0xFD 0x30)) [] =
      some [0x00, 0x00, 0x00, 0xFD, 0x8001, 0x34] := by decide

/-- `CLV` (95_test_vectors.md V-FLAG-5). -/
theorem test_clv_1 :
    seen (step (cpu [(0x8000, 0xB8)] 0x00 0x00 0x00 0xFD 0x70)) [] =
      some [0x00, 0x00, 0x00, 0xFD, 0x8001, 0x30] := by decide

/-- `CLD` (95_test_vectors.md V-FLAG-6). -/
theorem test_cld_1 :
    seen (step (cpu [(0x8000, 0xD8)] 0x00 0x00 0x00 0xFD 0x38)) [] =
      some [0x00, 0x00, 0x00, 0xFD, 0x8001, 0x30] := by decide

/-- `SED` (95_test_vectors.md V-FLAG-7). -/
theorem test_sed_1 :
    seen (step (cpu [(0x8000, 0xF8)] 0x00 0x00 0x00 0xFD 0x30)) [] =
      some [0x00, 0x00, 0x00, 0xFD, 0x8001, 0x38] := by decide

/-- `ADC #$80` (95_test_vectors.md V-ARITH-3). -/
theorem test_adcImm_1 :
    seen (step (cpu [(0x8000, 0x69), (0x8001, 0x80)] 0x80 0x00 0x00 0xFD 0x30)) [] =
      some [0x00, 0x00, 0x00, 0xFD, 0x8002, 0x73] := by decide

/-- `ADC #$01` (95_test_vectors.md V-ARITH-6). -/
theorem test_adcImm_2 :
    seen (step (cpu [(0x8000, 0x69), (0x8001, 0x01)] 0x09 0x00 0x00 0xFD 0x38)) [] =
      some [0x0A, 0x00, 0x00, 0xFD, 0x8002, 0x38] := by decide

/-- `SBC #$01` (95_test_vectors.md V-ARITH-8). -/
theorem test_sbcImm_1 :
    seen (step (cpu [(0x8000, 0xE9), (0x8001, 0x01)] 0x80 0x00 0x00 0xFD 0x31)) [] =
      some [0x7F, 0x00, 0x00, 0xFD, 0x8002, 0x71] := by decide

/-- `SBC #$05` (95_test_vectors.md V-ARITH-9). -/
theorem test_sbcImm_2 :
    seen (step (cpu [(0x8000, 0xE9), (0x8001, 0x05)] 0x05 0x00 0x00 0xFD 0x30)) [] =
      some [0xFF, 0x00, 0x00, 0xFD, 0x8002, 0xB0] := by decide

/-- `CMP #$20` (95_test_vectors.md V-ARITH-11). -/
theorem test_cmpImm_1 :
    seen (step (cpu [(0x8000, 0xC9), (0x8001, 0x20)] 0x10 0x00 0x00 0xFD 0x30)) [] =
      some [0x10, 0x00, 0x00, 0xFD, 0x8002, 0xB0] := by decide

/-- `CMP #$01` (95_test_vectors.md V-ARITH-12). -/
theorem test_cmpImm_2 :
    seen (step (cpu [(0x8000, 0xC9), (0x8001, 0x01)] 0x80 0x00 0x00 0xFD 0x30)) [] =
      some [0x80, 0x00, 0x00, 0xFD, 0x8002, 0x31] := by decide

/-- `CPX #$06` (95_test_vectors.md V-ARITH-13). -/
theorem test_cpxImm_1 :
    seen (step (cpu [(0x8000, 0xE0), (0x8001, 0x06)] 0x00 0x05 0x00 0xFD 0x30)) [] =
      some [0x00, 0x05, 0x00, 0xFD, 0x8002, 0xB0] := by decide

/-- `CPY #$00` (95_test_vectors.md V-ARITH-14). -/
theorem test_cpyImm_1 :
    seen (step (cpu [(0x8000, 0xC0)] 0x00 0x00 0x00 0xFD 0x30)) [] =
      some [0x00, 0x00, 0x00, 0xFD, 0x8002, 0x33] := by decide

/-- `INC $10` (95_test_vectors.md V-ARITH-15). -/
theorem test_incZp_1 :
    seen (step (cpu [(0x0010, 0xFF), (0x8000, 0xE6), (0x8001, 0x10)] 0x00 0x00 0x00 0xFD 0x31)) [0x0010] =
      some [0x00, 0x00, 0x00, 0xFD, 0x8002, 0x33, 0x00] := by decide

/-- `DEC $0200` (95_test_vectors.md V-ARITH-16). -/
theorem test_decAbs_1 :
    seen (step (cpu [(0x0200, 0x00), (0x8000, 0xCE), (0x8002, 0x02)] 0x00 0x00 0x00 0xFD 0x30)) [0x0200] =
      some [0x00, 0x00, 0x00, 0xFD, 0x8003, 0xB0, 0xFF] := by decide

/-- `INX` (95_test_vectors.md V-ARITH-17). -/
theorem test_inx_1 :
    seen (step (cpu [(0x8000, 0xE8)] 0x00 0xFF 0x00 0xFD 0x30)) [] =
      some [0x00, 0x00, 0x00, 0xFD, 0x8001, 0x32] := by decide

/-- `INY` (95_test_vectors.md V-ARITH-18). -/
theorem test_iny_1 :
    seen (step (cpu [(0x8000, 0xC8)] 0x00 0x00 0x7F 0xFD 0x30)) [] =
      some [0x00, 0x00, 0x80, 0xFD, 0x8001, 0xB0] := by decide

/-- `DEX` (95_test_vectors.md V-ARITH-19). -/
theorem test_dex_1 :
    seen (step (cpu [(0x8000, 0xCA)] 0x00 0x00 0x00 0xFD 0x30)) [] =
      some [0x00, 0xFF, 0x00, 0xFD, 0x8001, 0xB0] := by decide

/-- `DEY` (95_test_vectors.md V-ARITH-20). -/
theorem test_dey_1 :
    seen (step (cpu [(0x8000, 0x88)] 0x00 0x00 0x01 0xFD 0x30)) [] =
      some [0x00, 0x00, 0x00, 0xFD, 0x8001, 0x32] := by decide

/-- `LDA #$00` (95_test_vectors.md V-LS-1). -/
theorem test_ldaImm_1 :
    seen (step (cpu [(0x8000, 0xA9)] 0x55 0x00 0x00 0xFD 0x30)) [] =
      some [0x00, 0x00, 0x00, 0xFD, 0x8002, 0x32] := by decide

/-- `LDA #$80` (95_test_vectors.md V-LS-2). -/
theorem test_ldaImm_2 :
    seen (step (cpu [(0x8000, 0xA9), (0x8001, 0x80)] 0x00 0x00 0x00 0xFD 0x30)) [] =
      some [0x80, 0x00, 0x00, 0xFD, 0x8002, 0xB0] := by decide

/-- `LDX #$80` (95_test_vectors.md V-LS-3). -/
theorem test_ldxImm_1 :
    seen (step (cpu [(0x8000, 0xA2), (0x8001, 0x80)] 0x00 0x00 0x00 0xFD 0x30)) [] =
      some [0x00, 0x80, 0x00, 0xFD, 0x8002, 0xB0] := by decide

/-- `LDY #$7F` (95_test_vectors.md V-LS-4). -/
theorem test_ldyImm_1 :
    seen (step (cpu [(0x8000, 0xA0), (0x8001, 0x7F)] 0x00 0x00 0x00 0xFD 0x30)) [] =
      some [0x00, 0x00, 0x7F, 0xFD, 0x8002, 0x30] := by decide

/-- `STA $10` (95_test_vectors.md V-LS-5). -/
theorem test_staZp_1 :
    seen (step (cpu [(0x0010, 0x00), (0x8000, 0x85), (0x8001, 0x10)] 0x3C 0x00 0x00 0xFD 0x30)) [0x0010] =
      some [0x3C, 0x00, 0x00, 0xFD, 0x8002, 0x30, 0x3C] := by decide

/-- `STX $FF,Y` (95_test_vectors.md V-LS-6). -/
theorem test_stxZpy_1 :
    seen (step (cpu [(0x0000, 0x00), (0x8000, 0x96), (0x8001, 0xFF)] 0x00 0x12 0x01 0xFD 0x30)) [0x0000] =
      some [0x00, 0x12, 0x01, 0xFD, 0x8002, 0x30, 0x12] := by decide

/-- `STY $0200` (95_test_vectors.md V-LS-7). -/
theorem test_styAbs_1 :
    seen (step (cpu [(0x0200, 0x00), (0x8000, 0x8C), (0x8002, 0x02)] 0x00 0x00 0x34 0xFD 0x30)) [0x0200] =
      some [0x00, 0x00, 0x34, 0xFD, 0x8003, 0x30, 0x34] := by decide

/-- `TAX` (95_test_vectors.md V-LS-8). -/
theorem test_tax_1 :
    seen (step (cpu [(0x8000, 0xAA)] 0x00 0x11 0x00 0xFD 0x30)) [] =
      some [0x00, 0x00, 0x00, 0xFD, 0x8001, 0x32] := by decide

/-- `TAY` (95_test_vectors.md V-LS-9). -/
theorem test_tay_1 :
    seen (step (cpu [(0x8000, 0xA8)] 0x90 0x00 0x00 0xFD 0x30)) [] =
      some [0x90, 0x00, 0x90, 0xFD, 0x8001, 0xB0] := by decide

/-- `TXA` (95_test_vectors.md V-LS-10). -/
theorem test_txa_1 :
    seen (step (cpu [(0x8000, 0x8A)] 0xFF 0x01 0x00 0xFD 0xB0)) [] =
      some [0x01, 0x01, 0x00, 0xFD, 0x8001, 0x30] := by decide

/-- `TYA` (95_test_vectors.md V-LS-11). -/
theorem test_tya_1 :
    seen (step (cpu [(0x8000, 0x98)] 0x00 0x00 0xFF 0xFD 0x30)) [] =
      some [0xFF, 0x00, 0xFF, 0xFD, 0x8001, 0xB0] := by decide

/-- `TSX` (95_test_vectors.md V-LS-12). -/
theorem test_tsx_1 :
    seen (step (cpu [(0x8000, 0xBA)] 0x00 0x00 0x00 0xFD 0x30)) [] =
      some [0x00, 0xFD, 0x00, 0xFD, 0x8001, 0xB0] := by decide

/-- `TXS` (95_test_vectors.md V-LS-13). -/
theorem test_txs_1 :
    seen (step (cpu [(0x8000, 0x9A)] 0x00 0x00 0x00 0xFD 0x30)) [] =
      some [0x00, 0x00, 0x00, 0x00, 0x8001, 0x30] := by decide

/-- `PHA` (95_test_vectors.md V-STK-1). -/
theorem test_pha_1 :
    seen (step (cpu [(0x8000, 0x48)] 0x55 0x00 0x00 0xFD 0x30)) [0x01FD] =
      some [0x55, 0x00, 0x00, 0xFC, 0x8001, 0x30, 0x55] := by decide

/-- `PHA` (95_test_vectors.md V-STK-2). -/
theorem test_pha_2 :
    seen (step (cpu [(0x8000, 0x48)] 0x66 0x00 0x00 0x00 0x30)) [0x0100] =
      some [0x66, 0x00, 0x00, 0xFF, 0x8001, 0x30, 0x66] := by decide

/-- `PHP` (95_test_vectors.md V-STK-3). -/
theorem test_php_1 :
    seen (step (cpu [(0x8000, 0x08)] 0x00 0x00 0x00 0xFD 0xB5)) [0x01FD] =
      some [0x00, 0x00, 0x00, 0xFC, 0x8001, 0xB5, 0xB5] := by decide

/-- `PLA` (95_test_vectors.md V-STK-4). -/
theorem test_pla_1 :
    seen (step (cpu [(0x01FD, 0x00), (0x8000, 0x68)] 0x55 0x00 0x00 0xFC 0x30)) [] =
      some [0x00, 0x00, 0x00, 0xFD, 0x8001, 0x32] := by decide

/-- `PLA` (95_test_vectors.md V-STK-5). -/
theorem test_pla_2 :
    seen (step (cpu [(0x0100, 0x80), (0x8000, 0x68)] 0x00 0x00 0x00 0xFF 0x30)) [] =
      some [0x80, 0x00, 0x00, 0x00, 0x8001, 0xB0] := by decide

/-- `PLP` (95_test_vectors.md V-STK-6). -/
theorem test_plp_1 :
    seen (step (cpu [(0x01FD, 0xFF), (0x8000, 0x28)] 0x00 0x00 0x00 0xFC 0x30)) [] =
      some [0x00, 0x00, 0x00, 0xFD, 0x8001, 0xFF] := by decide

/-- `PLP` (95_test_vectors.md V-STK-7). -/
theorem test_plp_2 :
    seen (step (cpu [(0x01FD, 0x30), (0x8000, 0x28)] 0x00 0x00 0x00 0xFC 0x30)) [] =
      some [0x00, 0x00, 0x00, 0xFD, 0x8001, 0x30] := by decide

/-- `JMP $C000` (95_test_vectors.md V-STK-8). -/
theorem test_jmpAbs_1 :
    seen (step (cpu [(0x8000, 0x4C), (0x8002, 0xC0)] 0x00 0x00 0x00 0xFD 0x30)) [] =
      some [0x00, 0x00, 0x00, 0xFD, 0xC000, 0x30] := by decide

/-- `JSR $9000` (95_test_vectors.md V-STK-9). -/
theorem test_jsr_1 :
    seen (step (cpu [(0x8000, 0x20), (0x8002, 0x90)] 0x00 0x00 0x00 0xFD 0x30)) [0x01FD, 0x01FC] =
      some [0x00, 0x00, 0x00, 0xFB, 0x9000, 0x30, 0x80, 0x02] := by decide

/-- `RTS` (95_test_vectors.md V-STK-10). -/
theorem test_rts_1 :
    seen (step (cpu [(0x01FC, 0x02), (0x01FD, 0x80), (0x8000, 0x60)] 0x00 0x00 0x00 0xFB 0x30)) [] =
      some [0x00, 0x00, 0x00, 0xFD, 0x8003, 0x30] := by decide

/-- `RTS` (95_test_vectors.md V-STK-11). -/
theorem test_rts_2 :
    seen (step (cpu [(0x01FC, 0xFF), (0x01FD, 0xFF), (0x8000, 0x60)] 0x00 0x00 0x00 0xFB 0x30)) [] =
      some [0x00, 0x00, 0x00, 0xFD, 0x0000, 0x30] := by decide

/-- `RTI` (95_test_vectors.md V-STK-12). -/
theorem test_rti_1 :
    seen (step (cpu [(0x01FB, 0x33), (0x01FC, 0x02), (0x01FD, 0x80), (0x8000, 0x40)] 0x00 0x00 0x00 0xFA 0x30)) [] =
      some [0x00, 0x00, 0x00, 0xFD, 0x8002, 0x33] := by decide

/-- `BRK` (95_test_vectors.md V-STK-13). -/
theorem test_brk_1 :
    seen (step (cpu [(0x8001, 0xEA), (0xFFFF, 0xC0)] 0x00 0x00 0x00 0xFD 0x33)) [0x01FD, 0x01FC, 0x01FB] =
      some [0x00, 0x00, 0x00, 0xFA, 0xC000, 0x37, 0x80, 0x02, 0x33] := by decide

/-- `NOP` (95_test_vectors.md V-STK-14). -/
theorem test_nop_1 :
    seen (step (cpu [(0x8000, 0xEA)] 0x00 0x00 0x00 0xFD 0x30)) [] =
      some [0x00, 0x00, 0x00, 0xFD, 0x8001, 0x30] := by decide

/-! ## The PPU ports: the bus access of the vector's one instruction -/

/-- A state with its PPU changed. -/
def withPpu (s : State) (f : Ppu → Ppu) : State := s.setPpu (f s.ppu)

/-- The PPU registers ctrl, mask, vblank, sprite0Hit, spriteOverflow, w, vram_addr, oam_addr, read_buffer, scroll_x, scroll_y,
then nmi_pending, of a state, and the vram cells and OAM bytes watched. -/
def seenPpu (t : State) (vram oam : List Nat) : List Nat :=
  [t.ppu.ctrl.toNat, t.ppu.mask.toNat, bitNat t.ppu.vblank, bitNat t.ppu.sprite0Hit, bitNat t.ppu.spriteOverflow,
    bitNat t.ppu.w, t.ppu.vramAddr.toNat, t.ppu.oamAddr.toNat, t.ppu.readBuffer.toNat, t.ppu.scrollX.toNat,
    t.ppu.scrollY.toNat, bitNat t.nmiPending] ++
    vram.map (fun k => (vramGet t.ppu.vram k).toNat) ++ oam.map fun k => (oamGet t.ppu.oam k).toNat


/-- `LDA $2002` (95_test_vectors.md V-PPU-1). -/
theorem test_port_1 :
    seenPpu (memRead 0x2002 (withPpu plain fun p => { p with vblank := true, w := true })).2 [] [] =
      [0x0, 0x0, 0x0, 0x0, 0x0, 0x0, 0x0, 0x0, 0x0, 0x0, 0x0, 0x0] := by decide

/-- `LDA $200A` (95_test_vectors.md V-PPU-3). -/
theorem test_port_3 :
    seenPpu (memRead 0x200A (withPpu plain fun p => { p with vblank := true })).2 [] [] =
      [0x0, 0x0, 0x0, 0x0, 0x0, 0x0, 0x0, 0x0, 0x0, 0x0, 0x0, 0x0] := by decide

/-- `STA $2000` (95_test_vectors.md V-PPU-5). -/
theorem test_port_5 :
    seenPpu (memWrite 0x2000 0x80 (withPpu plain fun p => { p with vblank := true })) [] [] =
      [0x80, 0x0, 0x1, 0x0, 0x0, 0x0, 0x0, 0x0, 0x0, 0x0, 0x0, 0x1] := by decide

/-- `STA $2000` (95_test_vectors.md V-PPU-7). -/
theorem test_port_7 :
    seenPpu (memWrite 0x2000 0x80 (withPpu plain fun p => { p with ctrl := 0x80, vblank := true })) [] [] =
      [0x80, 0x0, 0x1, 0x0, 0x0, 0x0, 0x0, 0x0, 0x0, 0x0, 0x0, 0x0] := by decide

/-- `STA $2005` (95_test_vectors.md V-PPU-9). -/
theorem test_port_9 :
    seenPpu (memWrite 0x2005 0x08 (plain)) [] [] =
      [0x0, 0x0, 0x0, 0x0, 0x0, 0x1, 0x0, 0x0, 0x0, 0x8, 0x0, 0x0] := by decide

/-- `STA $2005` (95_test_vectors.md V-PPU-10). -/
theorem test_port_10 :
    seenPpu (memWrite 0x2005 0x10 (withPpu plain fun p => { p with w := true, scrollX := 0x8 })) [] [] =
      [0x0, 0x0, 0x0, 0x0, 0x0, 0x0, 0x0, 0x0, 0x0, 0x8, 0x10, 0x0] := by decide

/-- `STA $2006` (95_test_vectors.md V-PPU-11). -/
theorem test_port_11 :
    seenPpu (memWrite 0x2006 0xFF (withPpu plain fun p => { p with vramAddr := 0x12 })) [] [] =
      [0x0, 0x0, 0x0, 0x0, 0x0, 0x1, 0x3F12, 0x0, 0x0, 0x0, 0x0, 0x0] := by decide

/-- `STA $2006` (95_test_vectors.md V-PPU-12). -/
theorem test_port_12 :
    seenPpu (memWrite 0x2006 0x23 (withPpu plain fun p => { p with w := true, vramAddr := 0x3F00 })) [] [] =
      [0x0, 0x0, 0x0, 0x0, 0x0, 0x0, 0x3F23, 0x0, 0x0, 0x0, 0x0, 0x0] := by decide

/-- `STA $3FFE` (95_test_vectors.md V-PPU-13). -/
theorem test_port_13 :
    seenPpu (memWrite 0x3FFE 0x21 (plain)) [] [] =
      [0x0, 0x0, 0x0, 0x0, 0x0, 0x1, 0x2100, 0x0, 0x0, 0x0, 0x0, 0x0] := by decide

/-- `STA $2007` (95_test_vectors.md V-PPU-14). -/
theorem test_port_14 :
    seenPpu (memWrite 0x2007 0x0F (withPpu plain fun p => { p with vramAddr := 0x3F10 })) [0x3F00] [] =
      [0x0, 0x0, 0x0, 0x0, 0x0, 0x0, 0x3F11, 0x0, 0x0, 0x0, 0x0, 0x0, 0x0F] := by decide

/-- `STA $2007` (95_test_vectors.md V-PPU-18). -/
theorem test_port_18 :
    seenPpu (memWrite 0x2007 0x55 (withPpu plain fun p => { p with vramAddr := 0x2805, mirroring := .horizontal })) [0x2405] [] =
      [0x0, 0x0, 0x0, 0x0, 0x0, 0x0, 0x2806, 0x0, 0x0, 0x0, 0x0, 0x0, 0x55] := by decide

/-- `STA $2007` (95_test_vectors.md V-PPU-20). -/
theorem test_port_20 :
    seenPpu (memWrite 0x2007 0x77 (withPpu plain fun p => { p with vramAddr := 0x3405, mirroring := .horizontal })) [0x2005] [] =
      [0x0, 0x0, 0x0, 0x0, 0x0, 0x0, 0x3406, 0x0, 0x0, 0x0, 0x0, 0x0, 0x77] := by decide

/-- `STA $2007` (95_test_vectors.md V-PPU-21). -/
theorem test_port_21 :
    seenPpu (memWrite 0x2007 0x12 (withPpu plain fun p => { p with vramAddr := 0x3FFF })) [0x3F1F] [] =
      [0x0, 0x0, 0x0, 0x0, 0x0, 0x0, 0x0, 0x0, 0x0, 0x0, 0x0, 0x0, 0x12] := by decide

/-- `LDA $2007` (95_test_vectors.md V-PPU-23). -/
theorem test_port_23 :
    seenPpu (memRead 0x2007 (withPpu plain fun p => { p with vramAddr := 0x2000, readBuffer := 0x99, vram := [(0x2000, 0x11)] })).2 [] [] =
      [0x0, 0x0, 0x0, 0x0, 0x0, 0x0, 0x2001, 0x0, 0x11, 0x0, 0x0, 0x0] ∧
    (memRead 0x2007 (withPpu plain fun p => { p with vramAddr := 0x2000, readBuffer := 0x99, vram := [(0x2000, 0x11)] })).1 = 0x99 := by decide

/-- `LDA $2007` (95_test_vectors.md V-PPU-24). -/
theorem test_port_24 :
    seenPpu (memRead 0x2007 (withPpu plain fun p => { p with vramAddr := 0x3F00, readBuffer := 0x11, vram := [(0x3F00, 0x0F)] })).2 [] [] =
      [0x0, 0x0, 0x0, 0x0, 0x0, 0x0, 0x3F01, 0x0, 0xF, 0x0, 0x0, 0x0] ∧
    (memRead 0x2007 (withPpu plain fun p => { p with vramAddr := 0x3F00, readBuffer := 0x11, vram := [(0x3F00, 0x0F)] })).1 = 0x11 := by decide

/-- `STA $2004` (95_test_vectors.md V-PPU-27). -/
theorem test_port_27 :
    seenPpu (memWrite 0x2004 0x10 (withPpu plain fun p => { p with oamAddr := 0xFF })) [] [0xFF] =
      [0x0, 0x0, 0x0, 0x0, 0x0, 0x0, 0x0, 0x0, 0x0, 0x0, 0x0, 0x0, 0x10] := by decide

/-- `LDA $2004` (95_test_vectors.md V-PPU-28). -/
theorem test_port_28 :
    seenPpu (memRead 0x2004 (withPpu plain fun p => { p with oamAddr := 0x5, oam := [(0x05, 0x3C)] })).2 [] [] =
      [0x0, 0x0, 0x0, 0x0, 0x0, 0x0, 0x0, 0x5, 0x0, 0x0, 0x0, 0x0] ∧
    (memRead 0x2004 (withPpu plain fun p => { p with oamAddr := 0x5, oam := [(0x05, 0x3C)] })).1 = 0x3C := by decide

/-- `STA $4014`: page $02 of bytes i XOR $5A from oam_addr $10 on, wrapping (95_test_vectors.md V-PPU-29). -/
theorem test_oamDma :
    (let s := memWrite 0x4014 0x02 (withPpu (cpu ((List.range 256).map fun i => (0x200 + i, BitVec.ofNat 8 i ^^^ 0x5A)) 2 0 0 0xFD 0)
      fun p => { p with oamAddr := 0x10 })
    [oamGet s.ppu.oam 0x10, oamGet s.ppu.oam 0x0F, oamGet s.ppu.oam 0x00, s.ppu.oamAddr] = [0x5A, 0xA5, 0xAA, 0x10]) := by
  decide +kernel

/-! ## Compositors: the palette cells numbered by themselves (95_test_vectors.md, its compositor vectors) -/

/-- The palette cells, each holding its own index. -/
def paletteCells : List Host.Cell :=
  (List.range 32).filterMap fun p => if paletteCell p = p then some (0x3F00 + p, BitVec.ofNat 8 p) else none

/-- A PPU with the ctrl, mirroring and vram cells given. -/
def ppuOf (ctrl : Byte) (m : Mirroring) (vram : List Host.Cell) : Ppu :=
  { plain.ppu with ctrl := ctrl, mirroring := m, vram := vram ++ paletteCells }

/-- Eight row bytes $FF from an address on. -/
def solid (a : Nat) : List Host.Cell := (List.range 8).map fun i => (a + i, 0xFF)

/-- The opaque pixel of a 6-bit palette value. -/
def colour (v : BitVec 6) : Pixel :=
  { r := (Config.systemPalette v).r, g := (Config.systemPalette v).g, b := (Config.systemPalette v).b, a := 0xFF }

/-- Selector of the attribute quadrant: tile (2, 0) of attribute byte $E4 has selector 1, tile (2, 2) selector 3. -/
theorem test_background_attribute :
    fbAt (renderBgTile 2 2 0 0 0 (ppuOf 0 .vertical (solid 0x10 ++ [(0x2042, 1), (0x23C0, 0xE4)]))) 16 16 = colour 0x0D ∧
    fbAt (renderBgTile 2 0 0 0 0 (ppuOf 0 .vertical (solid 0x10 ++ [(0x2002, 1), (0x23C0, 0xE4)]))) 16 0 = colour 0x05 :=
  ⟨rfl, rfl⟩

/-- Bit 7 is the leftmost pixel, and colour index 0 is the backdrop cell $3F10, which is $3F00. -/
theorem test_background_bits :
    (let q := renderBgTile 0 0 0 0 0 (ppuOf 0 .vertical [(0x10, 0x80), (0x18, 0x01), (0x2000, 1), (0x23C0, 0)])
    (fbAt q 0 0, fbAt q 7 0, fbAt q 1 0)) = (colour 1, colour 2, colour 0) := rfl

/-- The scroll mux crosses into nametable 1, which mirroring decides. -/
theorem test_background_scroll :
    (let v := solid 0x10 ++ solid 0x28 ++ [(0x2000, 2), (0x23C0, 0), (0x2400, 1), (0x27C0, 0)]
    (fbAt (renderBgTile 1 0 0xF8 0 0 (ppuOf 0 .vertical v)) 8 0, fbAt (renderBgTile 1 0 0xF8 0 0 (ppuOf 0 .horizontal v)) 8 0,
      fbAt (renderBgTile 0 0 0 0 2 (ppuOf 0 .horizontal v)) 0 0)) = (colour 1, colour 2, colour 1) := rfl

/-- The four flips of one corner pixel. -/
theorem test_sprite_flips :
    (let p := ppuOf 0 .vertical [(0x10, 0x80)]
    (fbAt (renderSprite 100 50 1 0x00 p) 100 50, fbAt (renderSprite 100 50 1 0x40 p) 107 50,
      fbAt (renderSprite 100 50 1 0x80 p) 100 57, fbAt (renderSprite 100 50 1 0xC0 p) 107 57)) =
      (colour 0x11, colour 0x11, colour 0x11, colour 0x11) := rfl

/-- A sprite at the lower right edge is clipped. -/
theorem test_sprite_clipped :
    (renderSprite 0xFC 0xFE 1 0 (ppuOf 0 .vertical (solid 0x10))).fb.map Prod.fst =
      [0xFEFC, 0xFEFD, 0xFEFE, 0xFEFF, 0xFFFC, 0xFFFD, 0xFFFE, 0xFFFF] := by decide +kernel

/-! ## Interrupts, power-on, faults -/

/-- PC = $8123 at the byte given, NMI handler $9000, IRQ and BRK handler $A000 (95_test_vectors.md, its interrupt vectors). -/
def polled (nmi irq : Bool) (p op : Byte) : State :=
  { cpu [(0x8123, op), (0x8124, 0xFF), (0xFFFB, 0x90), (0xFFFF, 0xA0)] 0 0 0 0xFD p with
    pc := 0x8123, nmiPending := nmi, irqLine := irq }

/-- NMI: PC and PackP(0) pushed, I set, whatever I was. -/
theorem test_nmi :
    seen (step (polled true false 0x00 0xEA)) [0x1FD, 0x1FC, 0x1FB] =
      some [0, 0, 0, 0xFA, 0x9000, 0x34, 0x81, 0x23, 0x20] ∧
    seen (step (polled true false 0x04 0xEA)) [0x1FB] = some [0, 0, 0, 0xFA, 0x9000, 0x34, 0x24] := by decide

/-- IRQ where I is clear, nothing where it is set, NMI first where both are pending. -/
theorem test_irq :
    seen (step (polled false true 0x01 0xEA)) [0x1FD, 0x1FC, 0x1FB] =
      some [0, 0, 0, 0xFA, 0xA000, 0x35, 0x81, 0x23, 0x21] ∧
    seen (step (polled false true 0x04 0xEA)) [] = some [0, 0, 0, 0xFD, 0x8124, 0x34] ∧
    seen (step (polled true true 0x00 0xEA)) [] = some [0, 0, 0, 0xFA, 0x9000, 0x34] := by decide

/-- PC is loaded from $FFFC and $FFFD, low byte first (70_reset_and_hazards.md R1700). -/
theorem test_powerOn :
    (powerOn false true { prg := [(0xFFFC, 0x34), (0xFFFD, 0x12)], chr := [], mirroring := .vertical }).pc = 0x1234 := by
  decide

/-- State.reset is power-on with an empty cartridge. -/
theorem test_reset_is_powerOn : powerOn false true Cartridge.empty = State.reset := rfl

/-- An undefined byte leaves everything but the fault as it was (60_exceptions.md R1601). -/
theorem test_undefined_leaves :
    leaves (cpu [(0x8000, 2)] 0 0 0 0xFD 0) =
      { cpu [(0x8000, 2)] 0 0 0 0xFD 0 with fault := some (.undefinedOpcode 2 0x8000) } := by decide

/-! ## Witnesses: concrete states and operands that meet the hypotheses of each statement that has some, clause by clause, at
the boundaries of a clause's range. A statement that is not named here has no hypothesis but one that names a value. -/

/-- Well-formed instructions, the operand at an extreme, and bytes after them. -/
theorem witness_DecodeUndoesEncode :
    (Instr.wellFormed (.staAbs 0xFFFF) = true ∧ decode (encode (.staAbs 0xFFFF) ++ [0xEA]) = .ok (.staAbs 0xFFFF) [0xEA]) ∧
    Instr.wellFormed .brk = true ∧ decode (encode .brk ++ []) = .ok .brk [] := by decide

theorem witness_EncodeUndoesDecode :
    decode [0x9D, 0x34, 0x12, 0x00] = .ok (.staAbx 0x1234) [0x00] ∧ decode [0x00] = .ok .brk [] := by decide

/-- PC at the last address, the operand at $0000, and an IRQ that I masks. -/
def wrapping : State := { cpu [(0x0000, 0x42), (0xFFFF, 0xA9)] 0 0 0 0xFD 0x04 with pc := 0xFFFF, irqLine := true }

theorem witness_StepRunsTheDecodedInstruction :
    Fetches wrapping ∧ decode [0xA9, 0x42] = .ok (.ldaImm 0x42) [] ∧
    (∀ k b, [(0xA9 : Byte), 0x42][k]? = some b → byteAt wrapping (wrapping.pc + BitVec.ofNat 16 k) = some b) ∧
    step wrapping = exec (.ldaImm 0x42) (wrapping.setPc 1) := by
  refine ⟨⟨rfl, rfl, .inr rfl⟩, rfl, fun k b h => ?_, rfl⟩
  rcases k with _ | _ | k
  · simpa using h ▸ rfl
  · simpa using h ▸ rfl
  · simp at h

/-- An opcode fetched from PPUDATA ($2007), of one byte, of two and of three, the operands from open ports. -/
theorem witness_FetchGoesThroughTheBus :
    ∀ x ∈ [(Instr.tax, (0xAA : Byte)), (.ldaImm 0, 0xA9), (.staAbs 0, 0x8D)],
      ∃ s : State, s = { withPpu plain (fun p => { p with readBuffer := x.2 }) with pc := 0x2007 } ∧ Fetches s ∧
        (memRead s.pc s).1 = x.1.opcode := by
  intro x hx
  refine ⟨_, rfl, ⟨rfl, rfl, .inl rfl⟩, ?_⟩
  revert x
  decide

theorem witness_FetchGoesThroughTheBus_operands :
    Operand.bytes (Instr.operand .tax) = [] ∧ (∃ n t, Operand.bytes (Instr.operand (.ldaImm n)) = [n] ∧
      memRead 0x2008 (memRead 0x2007 plain).2 = (n, t)) ∧
    ∃ lo hi t u, Operand.bytes (Instr.operand (.staAbs (joinBytes hi lo))) = [lo, hi] ∧
      memRead 0x0001 (memRead 0x0000 (cpu [(1, 0x34), (2, 0x12)] 0 0 0 0 0)).2 = (lo, t) ∧ memRead 0x0002 t = (hi, u) :=
  ⟨rfl, ⟨_, _, rfl, rfl⟩, 0x34, 0x12, _, _, by decide, rfl, rfl⟩

/-- A holds the opcode of INX. -/
def storing (pc : Word) : State := (cpu [] 0xE8 0 0 0xFD 0).setPc pc

/-- At both ends of RAM and of cartridge space. -/
theorem witness_StoreIsSeenByTheNextFetch :
    (∀ pc, Fetches (storing pc) ∧ Memory.wf (storing pc).mem = true ∧ (storing pc).a = Instr.opcode .inx ∧
      (storing pc).cartWritable = true) ∧ Operand.bytes (Instr.operand .inx) = [] ∧
    [(0x0000 : Word), 0x1FFF, 0x4020, 0xFFFF].all fun pc =>
      decide ((storing pc).pc.toNat ≤ 0x1FFF ∨ 0x4020 ≤ (storing pc).pc.toNat) :=
  ⟨fun _ => ⟨⟨rfl, rfl, .inl rfl⟩, rfl, rfl, rfl⟩, rfl, by decide⟩

/-- The three cases of the poll. -/
theorem witness_PollOrder :
    (∀ i p, (polled true i p 0xEA).fault = none ∧ (polled true i p 0xEA).nmiPending = true) ∧
    ((polled false true 0 0xEA).fault = none ∧ (polled false true 0 0xEA).nmiPending = false ∧
      (polled false true 0 0xEA).irqLine = true ∧ (polled false true 0 0xEA).flags.i = false) ∧
    ((polled false true 4 0xEA).fault = none ∧ (polled false true 4 0xEA).nmiPending = false ∧
      (polled false true 4 0xEA).flags.i = true) ∧
    (polled false false 0 0x02).irqLine = false ∧ (memRead 0x8123 (polled false false 0 0x02)).1 ∈ undefinedBytes :=
  ⟨fun _ _ => ⟨rfl, rfl⟩, ⟨rfl, rfl, rfl, rfl⟩, ⟨rfl, rfl, rfl⟩, rfl, by decide⟩

/-- An entry whose pushes wrap in page 1. -/
theorem witness_InterruptEntry :
    (∃ s : State, s = (polled true false 4 0xEA).setSp 0x01 ∧ s.fault = none ∧ Memory.wf s.mem = true ∧
      s.nmiPending = true) ∧
    ∃ s : State, s = (polled false true 0 0xEA).setSp 0x00 ∧ s.fault = none ∧ Memory.wf s.mem = true ∧
      s.nmiPending = false ∧ s.irqLine = true ∧ s.flags.i = false :=
  ⟨⟨_, rfl, rfl, rfl, rfl⟩, _, rfl, rfl, rfl, rfl, rfl, rfl⟩

/-- The first and the last undefined byte, and one fetched from a port. -/
theorem witness_UndefinedOpcodeFaults :
    (Fetches (polled false false 0 0x02) ∧ (memRead 0x8123 (polled false false 0 0x02)).1 ∈ undefinedBytes) ∧
    (Fetches (polled false true 4 0xFF) ∧ (memRead 0x8123 (polled false true 4 0xFF)).1 ∈ undefinedBytes) ∧
    ∃ s : State, s = { withPpu plain (fun p => { p with readBuffer := 0x02 }) with pc := 0x2007 } ∧ Fetches s ∧
      (memRead s.pc s).1 ∈ undefinedBytes :=
  ⟨⟨⟨rfl, rfl, .inl rfl⟩, by decide⟩, ⟨⟨rfl, rfl, .inr rfl⟩, by decide⟩, _, rfl, ⟨rfl, rfl, .inl rfl⟩, by decide⟩

/-- A halted state with both interrupts pending. -/
def halted : State := (polled true true 0 0xEA).setFault (some (.undefinedOpcode 0x02 0x8000))

theorem witness_FaultIsSticky :
    halted.fault = some (.undefinedOpcode 0x02 0x8000) ∧ step halted = .fault (.undefinedOpcode 0x02 0x8000) := ⟨rfl, rfl⟩

/-- A step that repeats a fault and one that makes one. -/
theorem witness_OnlyAnUndefinedOpcodeStops :
    step halted = .fault (.undefinedOpcode 0x02 0x8000) ∧
    step (polled false false 0 0x02) = .fault (.undefinedOpcode 0x02 0x8123) ∧ (polled false false 0 0x02).fault = none :=
  ⟨rfl, rfl, rfl⟩

/-- A = $F0 and M = $3C in each of the three. -/
theorem witness_OraAndEorResults :
    ∀ x ∈ [(Instr.oraImm 0x3C, Mnemonic.ora, (0xFC : Byte)), (.andZp 0x10, .and, 0x30), (.eorAbs 0x0010, .eor, 0xCC)],
      ∃ (s t : State) (m : Byte), s = cpu [(0x10, 0x3C)] 0xF0 0 0 0xFD 0 ∧ loadOperand x.1.operand s = (m, t) ∧
        x.1.mnemonic = x.2.1 ∧ (x.2.1 = .ora ∧ x.2.2 = s.a ||| m ∨ x.2.1 = .and ∧ x.2.2 = s.a &&& m ∨
          x.2.1 = .eor ∧ x.2.2 = s.a ^^^ m) := by
  intro x hx
  refine ⟨_, _, 0x3C, rfl, Prod.ext ?_ rfl, ?_⟩ <;> revert x <;> decide

theorem witness_BitResult :
    ∃ t, loadOperand (Instr.operand (.bitZp 0x10)) (cpu [(0x10, 0xC0)] 0x0F 0 0 0xFD 0) = (0xC0, t) ∧
      (Instr.bitZp 0x10).mnemonic = .bit := ⟨_, rfl, rfl⟩

/-- Each of the four, in accumulator mode with A = $81 and in memory with M = $81, C set. -/
theorem witness_ShiftResults :
    ∀ x ∈ [(Instr.aslAcc, Instr.aslZp 0x10, Mnemonic.asl, (0x02 : Byte)), (.lsrAcc, .lsrZpx 0x10, .lsr, 0x40),
        (.rolAcc, .rolAbs 0x0010, .rol, 0x03), (.rorAcc, .rorAbx 0x0010, .ror, 0xC0)],
      ∃ s : State, s = cpu [(0x10, 0x81)] 0x81 0 0 0xFD 0x01 ∧
        resolve x.1.operand s = (.noAddr, s) ∧ resolve x.2.1.operand s = (.addr 0x0010, s) ∧
        operandAt .noAddr s = (0x81, s) ∧ operandAt (.addr 0x0010) s = (0x81, s) ∧
        (x.2.2.1 = .asl ∧ x.2.2.2.toNat = 2 * 0x81 % 256 ∨ x.2.2.1 = .lsr ∧ x.2.2.2.toNat = 0x81 / 2 ∨
          x.2.2.1 = .rol ∧ x.2.2.2.toNat = (2 * 0x81 + s.flags.c.toNat) % 256 ∨
          x.2.2.1 = .ror ∧ x.2.2.2.toNat = 0x81 / 2 + 128 * s.flags.c.toNat) := by
  intro x hx
  refine ⟨_, rfl, ?_⟩
  revert x
  decide

/-- Taken and not taken, backward by 128 and forward by 127. -/
theorem witness_BranchResults :
    ((Instr.bmi 0x7F, true) ∈ [(Instr.bpl 0x7F, !true), (.bmi 0x7F, true)]) ∧
    seen (exec (.bpl 0x80) plain) [] = some [0, 0, 0, 0xFD, 0x7F80, 0x30] ∧
    seen (exec (.bmi 0x7F) (cpu [] 0 0 0 0xFD 0xFF)) [] = some [0, 0, 0, 0xFD, 0x807F, 0xFF] ∧
    seen (exec (.beq 0x7F) plain) [] = some [0, 0, 0, 0xFD, 0x8000, 0x30] := by decide

/-- The IRQ line asserted and no NMI pending; and an NMI pending. -/
theorem witness_FlagInstructionResults :
    ((polled false true 4 0x58).fault = none ∧ (polled false true 4 0x58).irqLine = true ∧
      (polled false true 4 0x58).nmiPending = false ∧ (∃ t, exec .cli (polled false true 4 0x58) = .next t) ∧
      ∃ t, exec .sei (polled false true 4 0x58) = .next t) ∧
    (polled true false 0 0x78).fault = none ∧ (polled true false 0 0x78).nmiPending = true ∧
      ∃ t, exec .sei (polled true false 0 0x78) = .next t :=
  ⟨⟨rfl, rfl, rfl, ⟨_, rfl⟩, _, rfl⟩, rfl, rfl, _, rfl⟩

/-- $7F + $00 + 1 overflows without a carry. -/
theorem witness_AdcResult :
    ∃ (s t : State), s = cpu [] 0x7F 0 0 0xFD 0x01 ∧ loadOperand (Instr.operand (.adcImm 0x00)) s = (0x00, t) ∧
      (Instr.adcImm 0x00).mnemonic = .adc ∧ (128 : Nat) = s.a.toNat + (0x00 : Byte).toNat + s.flags.c.toNat ∧
      (0x80 : Byte).toNat = 128 % 256 ∧ false = decide (255 < 128) ∧
      true = decide ((0x80 : Byte).toInt ≠ s.a.toInt + (0x00 : Byte).toInt + s.flags.c.toNat) :=
  ⟨_, _, rfl, rfl, rfl, by decide, by decide, by decide, by decide⟩

/-- $80 - $00 - 1 overflows without a borrow. -/
theorem witness_SbcResult :
    ∃ (s t : State), s = cpu [] 0x80 0 0 0xFD 0x00 ∧ loadOperand (Instr.operand (.sbcImm 0x00)) s = (0x00, t) ∧
      (Instr.sbcImm 0x00).mnemonic = .sbc ∧
      (127 : Int) = (s.a.toNat : Int) - (0x00 : Byte).toNat - (1 - s.flags.c.toNat) ∧
      ((0x7F : Byte).toNat : Int) = 127 % 256 ∧ true = decide ((0 : Int) ≤ 127) ∧
      true = decide ((0x7F : Byte).toInt ≠ s.a.toInt - (0x00 : Byte).toInt - (1 - s.flags.c.toNat)) :=
  ⟨_, _, rfl, rfl, rfl, by decide, by decide, by decide, by decide⟩

/-- Equal, above and below, one for each register. -/
theorem witness_CompareResults :
    ∀ x ∈ [(Instr.cmpImm 0x80, Mnemonic.cmp, (0x80 : Byte)), (.cpxZp 0x10, .cpx, 0xFF), (.cpyAbs 0x0010, .cpy, 0x00)],
      ∃ (s t : State) (m : Byte), s = cpu [(0x10, 0x80)] 0x80 0xFF 0x00 0xFD 0 ∧ loadOperand x.1.operand s = (m, t) ∧
        x.1.mnemonic = x.2.1 ∧ (x.2.1 = .cmp ∧ x.2.2 = s.a ∨ x.2.1 = .cpx ∧ x.2.2 = s.x ∨ x.2.1 = .cpy ∧ x.2.2 = s.y) := by
  intro x hx
  refine ⟨_, _, 0x80, rfl, Prod.ext ?_ rfl, ?_⟩ <;> revert x <;> decide

/-- $FF incremented and $00 decremented. -/
theorem witness_IncDecMemoryResults :
    (∃ s u : State, s = cpu [(0x10, 0xFF)] 0 0 0 0xFD 0 ∧ (Instr.incZp 0x10).mnemonic = .inc ∧ memRead 0x0010 s = (0xFF, u) ∧
      (0x00 : Byte).toNat = (0xFF + 1) % 256) ∧
    ∃ s u : State, s = cpu [(0x10, 0x00)] 0 0x10 0 0xFD 0 ∧ (Instr.decZpx 0x00).mnemonic = .dec ∧
      memRead 0x0010 s = (0x00, u) ∧ (0xFF : Byte).toNat = (0x00 + 255) % 256 :=
  ⟨⟨_, _, rfl, rfl, rfl, by decide⟩, _, _, rfl, rfl, rfl, by decide⟩

/-- X at $FF and at $00, Y at $FF and at $00. -/
theorem witness_IncDecRegisterResults :
    [(0xFF : Byte), 0x00].all fun v =>
      let s := cpu [] 0 v v 0xFD 0
      decide ((v + 1).toNat = (s.x.toNat + 1) % 256 ∧ (v + 1).toNat = (s.y.toNat + 1) % 256 ∧
        (v - 1).toNat = (s.x.toNat + 255) % 256 ∧ (v - 1).toNat = (s.y.toNat + 255) % 256) := by decide

theorem witness_LoadResults :
    ∀ x ∈ [(Instr.ldaZp 0x10, Mnemonic.lda), (.ldxZpy 0x10, .ldx), (.ldyAbx 0x0010, .ldy)],
      (loadOperand x.1.operand (cpu [(0x10, 0x80)] 0 0 0 0xFD 0)).1 = 0x80 ∧ x.1.mnemonic = x.2 := by decide

theorem witness_StoreResults :
    ∀ x ∈ [(Instr.staIzy 0x10, Mnemonic.sta, (1 : Byte)), (.stxZpy 0x10, .stx, 2), (.styZpx 0x10, .sty, 3)],
      x.1.mnemonic = x.2.1 ∧ (x.2.1 = .sta ∧ x.2.2 = (cpu [] 1 2 3 0xFD 0).a ∨ x.2.1 = .stx ∧ x.2.2 = (cpu [] 1 2 3 0xFD 0).x ∨
        x.2.1 = .sty ∧ x.2.2 = (cpu [] 1 2 3 0xFD 0).y) := by decide

/-- PushInstructionResults, SubroutineResults, BrkResult, PushingFormsKeepOtherBytes: S = 0, where a push wraps, and a canonical
memory. -/
theorem witness_pushes :
    Memory.wf (cpu [(0x0100, 0x11), (0x01FF, 0x22)] 0x80 0 0 0x00 0xFF).mem = true ∧
    ∀ i ∈ [Instr.pha, .php, .jsr 0x1234, .brk],
      ∃ t, exec i (cpu [(0x0100, 0x11), (0x01FF, 0x22)] 0x80 0 0 0x00 0xFF) = .next t ∧ pushes i.mnemonic = true := by
  refine ⟨rfl, fun i hi => ⟨_, Laws.Exec.exec_eq_effect i _, ?_⟩⟩
  revert i
  decide

/-- A pointer at $02FF, whose high byte is at $0200. -/
theorem witness_JumpResults :
    ∃ t u, memRead 0x02FF (cpu [(0x0200, 0x80), (0x02FF, 0x34), (0x0300, 0x40)] 0 0 0 0xFD 0) = (0x34, t) ∧
      memRead (BitVec.ofNat 16 (256 * ((0x02FF : Word).toNat / 256) + ((0x02FF : Word).toNat + 1) % 256)) t = (0x80, u) :=
  ⟨_, _, rfl, rfl⟩

/-- The three entries, S = $01 so that the pushes wrap. -/
theorem witness_ReturnResumesTheInterruptedProgram :
    (∃ s : State, s = (polled true true 0 0xEA).setSp 0x01 ∧ Memory.wf s.mem = true ∧ s.fault = none ∧ s.nmiPending = true ∧
      ∃ t, step s = .next t) ∧
    (∃ s : State, s = (polled false true 0 0xEA).setSp 0x01 ∧ Memory.wf s.mem = true ∧ s.fault = none ∧
      s.nmiPending = false ∧ s.irqLine = true ∧ s.flags.i = false ∧ ∃ t, step s = .next t) ∧
    ∃ t, exec .brk (polled false true 0 0x00) = .next t :=
  ⟨⟨_, rfl, rfl, rfl, rfl, _, rfl⟩, ⟨_, rfl, rfl, rfl, rfl, rfl, rfl, _, rfl⟩, _, rfl⟩

/-- Accumulator mode, and an address that holds a byte. -/
theorem witness_OperandAccess :
    resolve .acc plain = (.noAddr, plain) ∧ resolve (.zpx 0xFF) plain = (.addr 0x00FF, plain) ∧
    (∃ v, byteAt plain 0x00FF = some v) ∧ Operand.mode (.zpx 0xFF) ≠ .ind :=
  ⟨rfl, rfl, ⟨_, rfl⟩, by decide⟩

/-- FlagsOnlyTheirWritersChange and RegistersOnlyTheirWritersChange: STA is in no list of flag writers, TXS in none of A's, X's, Y's and PC's, STX in none of S's. -/
theorem witness_frames :
    (∃ t, exec (.staAbs 0x0010) plain = .next t) ∧ (∃ t, exec .txs plain = .next t) ∧ (∃ t, exec (.stxZp 0x10) plain = .next t) ∧
    Mnemonic.sta ∉ [Mnemonic.lda, .ldx, .ldy, .tax, .tay, .txa, .tya, .tsx, .pla, .and, .ora, .eor, .inc, .dec, .inx, .iny,
      .dex, .dey, .asl, .lsr, .rol, .ror, .cmp, .cpx, .cpy, .adc, .sbc, .bit, .plp, .rti, .clc, .sec, .clv, .cld, .sed,
      .cli, .sei, .brk] ∧
    Mnemonic.txs ∉ [Mnemonic.ora, .and, .eor, .adc, .sbc, .lda, .txa, .tya, .pla] ∧
    ¬ (Mnemonic.txs ∈ [Mnemonic.asl, .lsr, .rol, .ror] ∧ Instr.operand .txs = .acc) ∧
    Mnemonic.txs ∉ [Mnemonic.ldx, .tax, .tsx, .inx, .dex] ∧ Mnemonic.txs ∉ [Mnemonic.ldy, .tay, .iny, .dey] ∧
    Mnemonic.stx ∉ [Mnemonic.txs, .pha, .php, .pla, .plp, .jsr, .rts, .rti, .brk] ∧
    Mnemonic.txs ∉ [Mnemonic.bpl, .bmi, .bvc, .bvs, .bcc, .bcs, .bne, .beq, .jmp, .jsr, .rts, .rti, .brk] :=
  ⟨⟨_, rfl⟩, ⟨_, rfl⟩, ⟨_, rfl⟩, by decide, by decide, by decide, by decide, by decide, by decide, by decide⟩

/-- A read of PPUDATA, and a shift of A. -/
theorem witness_FormsThatStoreNothingKeepMemory :
    (∃ t, exec (.ldaAbs 0x2007) plain = .next t) ∧ pushes .lda = false ∧ storesToOperand .lda = false ∧
    (∃ t, exec .aslAcc plain = .next t) ∧ pushes .asl = false ∧ Instr.operand .aslAcc = .acc :=
  ⟨⟨_, rfl⟩, rfl, rfl, ⟨_, rfl⟩, rfl, rfl⟩

/-- A store whose address wraps to $0000, and a byte it does not touch. -/
theorem witness_StoringFormsKeepOtherBytes :
    (∃ t, exec (.staAbx 0xFFFF) (cpu [] 0x42 0x01 0 0xFD 0) = .next t) ∧ storesToOperand .sta = true ∧
    resolve (Instr.operand (.staAbx 0xFFFF)) (cpu [] 0x42 0x01 0 0xFD 0) = (.addr 0x0000, cpu [] 0x42 0x01 0 0xFD 0) ∧
    ¬ SameByte (cpu [] 0x42 0x01 0 0xFD 0) 0x0001 0x0000 := by
  refine ⟨⟨_, Laws.Exec.exec_eq_effect _ _⟩, rfl, by decide, ?_⟩
  unfold SameByte
  decide

/-- RAM_MIRROR on and CART_WRITABLE off. -/
def mirrored : State := { plain with ramMirror := true, cartWritable := false }

/-- Both ends of every range of the map. -/
theorem witness_BusReads :
    ([(0x0000 : Word), 0x1FFF].all fun a =>
      decide (a.toNat ≤ 0x1FFF)) ∧ plain.ramMirror = false ∧
    mirrored.ramMirror = true ∧
    ([(0x2000 : Word), 0x3FFF].all fun a =>
      decide (0x2000 ≤ a.toNat ∧ a.toNat ≤ 0x3FFF)) ∧
    ([(0x4000 : Word), 0x4014, 0x401F].all fun a =>
      decide (0x4000 ≤ a.toNat ∧ a.toNat ≤ 0x401F)) ∧
    ([(0x4020 : Word), 0xFFFF].all fun a =>
      decide (0x4020 ≤ a.toNat)) ∧
    ([(0x1FFF : Word), 0x2000, 0x3FFE, 0x4000, 0x4020].all fun a =>
      decide (¬ (0x2000 ≤ a.toNat ∧ a.toNat ≤ 0x3FFF ∧ (a.toNat % 8 = 2 ∨ a.toNat % 8 = 7)))) ∧
    byteAt (cpu [(0x1FFF, 0x42)] 0 0 0 0 0) 0x1FFF = some 0x42 := by decide

/-- Both ends of every range, CART_WRITABLE on and off, and two RAM addresses of one cell under RAM_MIRROR. -/
theorem witness_BusWrites :
    Memory.wf plain.mem = true ∧ plain.cartWritable = true ∧ mirrored.cartWritable = false ∧
    ([(0x0000 : Word), 0x1FFF, 0x4020, 0xFFFF].all fun a =>
      decide (a.toNat ≤ 0x1FFF ∨ 0x4020 ≤ a.toNat ∧ plain.cartWritable = true)) ∧
    ([(0x4000 : Word), 0x4013, 0x4015, 0x401F].all fun a =>
      decide (0x4000 ≤ a.toNat ∧ a.toNat ≤ 0x401F ∧ a ≠ 0x4014)) ∧
    SameByte mirrored 0x1FFF 0x07FF ∧ ¬ SameByte plain 0x1FFF 0x07FF := by
  unfold SameByte
  decide

/-- PpuPortReads and PpuPortWrites: one address of every residue, at both ends of the window. -/
theorem witness_ports :
    ([(0x2000 : Word), 0x2001, 0x2002, 0x2003, 0x2004, 0x2005, 0x2006, 0x2007, 0x3FF8, 0x3FFF].all fun a =>
      decide (0x2000 ≤ a.toNat ∧ a.toNat ≤ 0x3FFF)) ∧ (∀ a, ∃ v t, memRead a plain = (v, t)) ∧
    [(0x2000 : Word), 0x2001, 0x2002, 0x2003, 0x2004, 0x2005, 0x2006, 0x3FFF].map (fun a => a.toNat % 8) =
      [0, 1, 2, 3, 4, 5, 6, 7] := ⟨by decide, fun _ => ⟨_, _, rfl⟩, by decide⟩

/-- The last page of RAM, the first whole page of cartridge space and the last page. -/
theorem witness_OamDmaCopiesAPage :
    oamWf plain.ppu = true ∧ [(0x00 : Byte), 0x1F, 0x41, 0xFF].all fun v => decide (v.toNat ≤ 0x1F ∨ 0x41 ≤ v.toNat) := by decide

theorem witness_VramReadsAreDelayedByOne :
    plain.ppu.w = false ∧ ∃ b1 t1 b2 t2,
      memRead 0x2007 (memWrite 0x2006 0x00 (memWrite 0x2006 0x3F plain)) = (b1, t1) ∧ memRead 0x2007 t1 = (b2, t2) :=
  ⟨rfl, _, _, _, _, rfl, rfl⟩

/-- A read buffer of $81 under the ctrl given, X = 7 and C set. -/
def buffered (ctrl : Byte) : State :=
  withPpu (cpu [] 0 7 0 0xFD 0x01) fun p => { p with ctrl := ctrl, readBuffer := 0x81 }

/-- Each of the six, in both forms that reach a port, at $2007, at its last mirror and at another port, for both increments. -/
theorem witness_ReadModifyWriteOfTheDataPort :
    (∀ c, resolve (Instr.operand (.incAbs 0x2007)) (buffered c) = (.addr 0x2007, buffered c) ∧
      resolve (Instr.operand (.rorAbx 0x3FF8)) (buffered c) = (.addr 0x3FFF, buffered c) ∧
      resolve (Instr.operand (.aslAbx 0x1FF9)) (buffered c) = (.addr 0x2000, buffered c) ∧
      (∃ u, memRead 0x2007 (buffered c) = (0x81, u)) ∧ (∃ u, memRead 0x3FFF (buffered c) = (0x81, u)) ∧
      (∃ v u, memRead 0x2000 (buffered c) = (v, u)) ∧ vramWf (buffered c).ppu = true) ∧
    [Instr.incAbs 0, .decAbs 0, .aslAbs 0, .lsrAbs 0, .rolAbs 0, .rorAbs 0].map Instr.mnemonic =
      [.inc, .dec, .asl, .lsr, .rol, .ror] ∧
    ([0x82, 0x80, 0x02, 0x40, 0x03, 0xC0] : List Byte).map BitVec.toNat =
      [(0x81 + 1) % 256, (0x81 + 255) % 256, 2 * 0x81 % 256, 0x81 / 2, (2 * 0x81 + true.toNat) % 256,
        0x81 / 2 + 128 * true.toNat] ∧ (buffered 0).flags.c = true ∧
    1 = (if (buffered 0x00).ppu.ctrl.getLsbD 2 then 32 else 1) ∧ 32 = (if (buffered 0x04).ppu.ctrl.getLsbD 2 then 32 else 1) := by
  refine ⟨fun c => ⟨rfl, rfl, rfl, ⟨_, rfl⟩, ⟨_, rfl⟩, ⟨_, _, rfl⟩, rfl⟩, by decide, by decide, by decide, by decide, by decide⟩

/-- Both ends of each range, in both mirroring modes where it matters. -/
theorem witness_VramMirrors :
    (canon .vertical 0x1FFF = 0x1FFF ∧ canon .vertical 0x3000 = 0x2000 ∧ canon .vertical 0x3EFF = canon .vertical 0x2EFF) ∧
    (canon .horizontal 0x23FF = 0x23FF ∧ canon .horizontal 0x2400 = 0x2000 ∧ canon .horizontal 0x2800 = 0x2400 ∧
      canon .vertical 0x2400 = 0x2400 ∧ canon .vertical 0x2800 = 0x2000 ∧ canon .vertical 0x2FFF = 0x27FF) ∧
    (canon .vertical 0x3F00 = 0x3F00 ∧ canon .vertical 0x3F10 = 0x3F00 ∧ canon .vertical 0x3FFC = 0x3F0C ∧
      canon .vertical 0x3FFF = 0x3F1F) ∧ vramWf (ppuOf 0 .vertical []) = true := by decide

/-- The first and the last palette index, the last screen, a corner pixel of a tile scrolled by 3, one off the left edge and one elsewhere. -/
theorem witness_BackgroundTilePixels :
    fbWf plain.ppu = true ∧ (3 : Byte).toNat ≤ 3 ∧ (0 ≤ 31 ∧ 31 ≤ 31) ∧
    (((4 : Nat) : Int) = 8 * (0 : Byte).toNat + 7 - ((3 : Byte).toNat % 8 : Nat) ∧ 4 ≤ 255 ∧
      ((0 : Nat) : Int) = 8 * (0 : Byte).toNat + 0 - ((0 : Byte).toNat % 8 : Nat) ∧ 0 ≤ 255) ∧
    ¬ ∃ r c : Nat, r < 8 ∧ c < 8 ∧ ((5 : Nat) : Int) = 8 * (0 : Byte).toNat + c - ((3 : Byte).toNat % 8 : Nat) ∧
      ((0 : Nat) : Int) = 8 * (0 : Byte).toNat + r - ((0 : Byte).toNat % 8 : Nat) := by
  refine ⟨rfl, by decide, by decide, by decide, ?_⟩
  rintro ⟨r, c, hr, hc, h, -⟩
  simp at h
  omega

/-- A sprite at the lower right edge: a pixel on it, and one off it. -/
theorem witness_SpritePixels :
    fbWf plain.ppu = true ∧ (0xF8 : Byte).toNat + 7 ≤ 255 ∧ (0xFF : Byte).toNat + 0 ≤ 255 ∧
    ¬ ∃ r c : Nat, r < 8 ∧ c < 8 ∧ 0 = (0xF8 : Byte).toNat + c ∧ 0 = (0xFF : Byte).toNat + r := by
  refine ⟨rfl, by decide, by decide, ?_⟩
  rintro ⟨r, c, -, -, h, -⟩
  change 0 = 248 + c at h
  omega

/-- The last place with no clipping, the other flip clear and set. -/
theorem witness_FlippedSpritesAreReflections :
    (0xF8 : Byte).toNat ≤ 248 ∧ ([(0x00 : Byte), 0x80].all fun a =>
      decide (a.getLsbD 6 = false)) ∧
    ([(0x00 : Byte), 0x40].all fun a =>
      decide (a.getLsbD 7 = false)) ∧ fbWf { plain.ppu with fb := [] } = true := by decide

theorem witness_OnlyCompositorsWriteTheFrameBuffer :
    (∀ tx ty sx sy ms, Action.cpu ≠ .driver (.renderBgTile tx ty sx sy ms)) ∧
    (∀ x y tile a, Action.cpu ≠ .driver (.renderSprite x y tile a)) :=
  ⟨nofun, nofun⟩

/-- Both ends of cartridge space and of the pattern region. -/
theorem witness_CartridgePopulatesMemory :
    (([(0x4020, 0x11), (0xFFFF, 0x22)] : List (Word × Byte)).map Prod.fst).Nodup ∧
    (([(0x0000, 0x33), (0x1FFF, 0x44)] : List (BitVec 14 × Byte)).map Prod.fst).Nodup ∧
    byteAt (powerOn true false (Cartridge.mk [(0x4020, 0x11), (0xFFFF, 0x22)] [(0, 0x33), (0x1FFF, 0x44)] .vertical)) 0x4020 =
      some 0x11 := by decide

/-- vblank set, ctrl bit 7 clear, and `STA $2000` of $80 next. -/
def enabling : State := withPpu (cpu [(0x8000, 0x8D), (0x8002, 0x20)] 0x80 0 0 0xFD 0) fun p => { p with vblank := true }

theorem witness_NmiRequestsHaveThreeSources :
    (enabling.nmiPending = false ∧ (act .cpu enabling).nmiPending = true) ∧
    (plain.nmiPending = false ∧ (act (.driver .raiseNmi) plain).nmiPending = true) ∧
    ((polled true false 4 0xEA).nmiPending = true ∧ (act .cpu (polled true false 4 0xEA)).nmiPending = false) ∧
    (enabling.ppu.vblank = true ∧ enabling.ppu.ctrl.getLsbD 7 = false ∧ (0x80 : Byte).getLsbD 7 = true) ∧
    (act (.driver .beginVBlank) (withPpu plain fun p => { p with ctrl := 0x80 })).nmiPending = true := by decide

/-- ADC in the first clause, PLP in the second, PHP in the last. -/
theorem witness_DecimalFlagIsNotRead :
    (∃ t, exec (.adcImm 0x01) plain = .next t) ∧ Mnemonic.adc ∉ [Mnemonic.cld, .sed, .plp, .rti, .php, .brk] ∧
    (∃ t, exec .plp plain = .next t) ∧ Mnemonic.plp ∈ [Mnemonic.cld, .sed, .plp, .rti] ∧
    (∃ t, exec .php plain = .next t) ∧ Mnemonic.php ∉ [Mnemonic.cld, .sed, .plp, .rti] :=
  ⟨⟨_, rfl⟩, by decide, ⟨_, rfl⟩, by decide, ⟨_, rfl⟩, by decide⟩

/-- The IRQ line asserted and a byte to pull. -/
def pulling (p : Byte) : State := { cpu [(0x0100, p)] 0 0 0 0xFF 0 with irqLine := true }

/-- The byte to pull with bit 2 clear and set, S = $FF, where the pull wraps to $0100. -/
theorem witness_InterruptMaskChangesAreSeenAtOnce :
    ([(0xFB : Byte), 0x04].all fun p =>
      decide ((pulling p).fault = none ∧ (pulling p).nmiPending = false ∧ (pulling p).irqLine = true ∧
      byteAt (pulling p) (stackSlot ((pulling p).sp + 1)) = some p ∧ p.getLsbD 2 = decide (p = 0x04))) ∧
    ∀ p, ∀ i ∈ [Instr.cli, .sei, .plp, .rti], ∃ t, exec i (pulling p) = .next t :=
  ⟨by decide, fun p i _ => ⟨_, Laws.Exec.exec_eq_effect i _⟩⟩

/-- StepKeepsInv and ScheduleKeepsInv: a state with cells in all four stores, with an instruction to run, and one with a fault. -/
theorem witness_StepKeepsInv :
    ∃ s : State, s = (withPpu (polled false false 0 0xEA)
        fun p => { p with vram := paletteCells, oam := [(0xFF, 1)], fb := [(0xFFFF, colour 0)] }) ∧
      CoreInv s ∧ (∃ t, step s = .next t) ∧ CoreInv halted :=
  ⟨_, rfl, ⟨rfl, rfl, rfl, rfl⟩, ⟨_, rfl⟩, ⟨rfl, rfl, rfl, rfl⟩⟩


end Sys2Proof.Tests
end

section
/-! The state family (10_state.md): which instructions write each flag and register, that no instruction but the pushers of
the status byte reads D, and the invariant at reset. -/

namespace Sys2Proof.Proofs.StateFamily

open Sys2Proof.Machine Sys2Proof.Safety Sys2Proof.Laws.Bus Sys2Proof.Laws.Operands Sys2Proof.Laws.Exec
  Sys2Proof.Laws.Frames

/-! ## What the effects leave in the registers -/

/-- A branch changes nothing but PC and what its resolver's reads change (43_branch.md R700). -/
theorem branchEffect_spec (c : Bool) (o : Operand) (s : State) :
    ∃ pc, branchEffect c o s = (resolve o s).2.setPc pc := by
  cases c
  · exact ⟨_, (State.setPc_self _).symm⟩
  · exact jumpTo_spec (resolve o s).1 (resolve o s).2

section BranchFields
variable (c : Bool) (o : Operand) (s : State)

@[simp] theorem branchEffect_a : (branchEffect c o s).a = s.a := by
  obtain ⟨_, h⟩ := branchEffect_spec c o s; simp [h]
@[simp] theorem branchEffect_x : (branchEffect c o s).x = s.x := by
  obtain ⟨_, h⟩ := branchEffect_spec c o s; simp [h]
@[simp] theorem branchEffect_y : (branchEffect c o s).y = s.y := by
  obtain ⟨_, h⟩ := branchEffect_spec c o s; simp [h]
@[simp] theorem branchEffect_sp : (branchEffect c o s).sp = s.sp := by
  obtain ⟨_, h⟩ := branchEffect_spec c o s; simp [h]
@[simp] theorem branchEffect_flags : (branchEffect c o s).flags = s.flags := by
  obtain ⟨_, h⟩ := branchEffect_spec c o s; simp [h]

end BranchFields

/-- BRK leaves A, X, Y and every flag but I alone (47_stack_jump.md R1110). -/
theorem effect_brk_spec (o : Operand) (s : State) :
    ∃ mem sp pc, effect .brk o s = { s with mem := mem, sp := sp, pc := pc, flags := { s.flags with i := true } } :=
  ⟨_, _, _, enterHandler_eq _ _ (show 0x4020 ≤ irqVector.toNat by decide) (by decide) s⟩

/-- A store to an address writes no register (40_addressing.md R417). -/
theorem storeOperand_a {o : Operand} {s t : State} {ea : Word} (h : resolve o s = (.addr ea, t)) (v : Byte) :
    (storeOperand o v s).a = s.a := by
  have ht : t.a = s.a := by simpa [h] using resolve_a o s
  simp [storeOperand, h, storeAt, ht]

/-- A read-modify-write of an address leaves A alone (42_shift.md R604). -/
theorem modifyOperand_a {o : Operand} {s t : State} {ea : Word} (h : resolve o s = (.addr ea, t))
    (res : Flags → Byte → Byte) (fl : Flags → Byte → Flags) : (modifyOperand res fl o s).a = s.a := by
  have ht : t.a = s.a := by simpa [h] using resolve_a o s
  simp [modifyOperand, h, operandAt, storeAt, ht]

/-! ## Flags -/

/-- The clauses of the index of flag writers, for one mnemonic and the flags before and after it (10_state.md R107 to
R112). -/
theorem effect_keeps_flags (m : Mnemonic) (o : Operand) (s : State) :
    (m ∉ [Mnemonic.lda, .ldx, .ldy, .tax, .tay, .txa, .tya, .tsx, .pla, .and, .ora, .eor, .inc, .dec, .inx, .iny,
        .dex, .dey, .asl, .lsr, .rol, .ror, .cmp, .cpx, .cpy, .adc, .sbc, .bit, .plp, .rti] →
      (effect m o s).flags.n = s.flags.n ∧ (effect m o s).flags.z = s.flags.z) ∧
    (m ∉ [Mnemonic.asl, .lsr, .rol, .ror, .cmp, .cpx, .cpy, .adc, .sbc, .plp, .rti, .clc, .sec] →
      (effect m o s).flags.c = s.flags.c) ∧
    (m ∉ [Mnemonic.adc, .sbc, .bit, .plp, .rti, .clv] → (effect m o s).flags.v = s.flags.v) ∧
    (m ∉ [Mnemonic.plp, .rti, .cld, .sed] → (effect m o s).flags.d = s.flags.d) ∧
    (m ∉ [Mnemonic.plp, .rti, .cli, .sei, .brk] → (effect m o s).flags.i = s.flags.i) := by
  cases m
  case lda | ldx | ldy | and | ora | eor =>
    simp [effect, effLda, effLdx, effLdy, effAnd, effOra, effEor, setANZ, setXNZ, setYNZ, setNZ]
  case tax | tay | txa | tya | tsx | inx | iny | dex | dey => simp [effect, setANZ, setXNZ, setYNZ, setNZ]
  case pla => simp [effect, pull_eq, setANZ, setNZ]
  case inc | dec => simp [effect, effInc, effDec, setNZ]
  case asl | lsr | rol | ror =>
    simp [effect, effAsl, effLsr, effRol, effRor, aslFlags, lsrFlags, rolFlags, rorFlags, setNZC, setNZ]
  case cmp | cpx | cpy => simp [effect, effCmp, effCpx, effCpy, compareFlags]
  case adc | sbc => simp [effect, effAdc, effSbc, adcFlags, sbcFlags, setNZ]
  case bit => simp [effect, effBit, bitFlags]
  case plp | rti => simp
  case brk =>
    obtain ⟨_, _, _, h⟩ := effect_brk_spec o s
    simp [h]
  case clc | sec | cli | sei | clv | cld | sed => simp [effect]
  case sta | stx | sty => simp [effect, effSta, effStx, effSty]
  case bpl | bmi | bvc | bvs | bcc | bcs | bne | beq => simp [effect]
  case pha | php => simp [effect, push_eq]
  case jmp | jsr | rts => simp [effect, effJmp, effJsr, effRts, push_eq, pull_eq]
  case txs | nop => simp [effect]

/-- Settles O35: a next state is the mnemonic's effect, and each row of the index writes its own flags only. -/
theorem flagsOnlyTheirWritersChange : Obligations.FlagsOnlyTheirWritersChange := by
  intro i s t h
  rw [exec_eq_effect] at h
  cases h
  exact effect_keeps_flags i.mnemonic i.operand s

/-! ## Registers -/

/-- A is written by the instructions of 10_state.md R101 only. -/
theorem effect_keeps_a (i : Instr) (s : State)
    (hw : i.mnemonic ∉ [Mnemonic.ora, .and, .eor, .adc, .sbc, .lda, .txa, .tya, .pla])
    (hs : ¬ (i.mnemonic ∈ [Mnemonic.asl, .lsr, .rol, .ror] ∧ i.operand = .acc)) :
    (effect i.mnemonic i.operand s).a = s.a := by
  cases hm : i.mnemonic
  case ora | and | eor | adc | sbc | lda | txa | tya | pla => simp [hm] at hw
  case asl | lsr | rol | ror =>
    obtain ⟨ea, hr⟩ := resolve_addr_shift (i := i) (by simp [hm]) (by simpa [hm] using hs) s
    simp [effect, effAsl, effLsr, effRol, effRor, modifyOperand_a hr]
  case inc | dec =>
    obtain ⟨ea, hr⟩ := resolve_addr (i := i) (by simp [hm]) s
    simp [effect, effInc, effDec, modifyOperand_a hr]
  case sta | stx | sty =>
    obtain ⟨ea, hr⟩ := resolve_addr (i := i) (by simp [hm]) s
    simp [effect, effSta, effStx, effSty, storeOperand_a hr]
  case bit | cmp | cpx | cpy => simp [effect, effBit, effCmp, effCpx, effCpy]
  case ldx | ldy => simp [effect, effLdx, effLdy, setXNZ, setYNZ]
  case tax | tay | tsx | inx | iny | dex | dey => simp [effect, setXNZ, setYNZ]
  case bpl | bmi | bvc | bvs | bcc | bcs | bne | beq => simp [effect]
  case clc | sec | cli | sei | clv | cld | sed | txs | nop => simp [effect]
  case pha | php | plp => simp [effect, pull_eq]
  case jmp | jsr | rts => simp [effect, effJmp, effJsr, effRts, pull_eq]
  case rti => simp [effect, returnFromHandler_eq]
  case brk =>
    obtain ⟨_, _, _, h⟩ := effect_brk_spec i.operand s
    simp [h]

/-- X, Y, S and PC are written by the instructions of 10_state.md R102 to R105 only. -/
theorem effect_keeps_x_y_sp_pc (m : Mnemonic) (o : Operand) (s : State) :
    (m ∉ [Mnemonic.ldx, .tax, .tsx, .inx, .dex] → (effect m o s).x = s.x) ∧
    (m ∉ [Mnemonic.ldy, .tay, .iny, .dey] → (effect m o s).y = s.y) ∧
    (m ∉ [Mnemonic.txs, .pha, .php, .pla, .plp, .jsr, .rts, .rti, .brk] → (effect m o s).sp = s.sp) ∧
    (m ∉ [Mnemonic.bpl, .bmi, .bvc, .bvs, .bcc, .bcs, .bne, .beq, .jmp, .jsr, .rts, .rti, .brk] →
      (effect m o s).pc = s.pc) := by
  cases m
  case ora | and | eor | adc | sbc | lda | ldx | ldy =>
    simp [effect, effOra, effAnd, effEor, effAdc, effSbc, effLda, effLdx, effLdy, setANZ, setXNZ, setYNZ]
  case bit | cmp | cpx | cpy => simp [effect, effBit, effCmp, effCpx, effCpy]
  case asl | lsr | rol | ror | inc | dec => simp [effect, effAsl, effLsr, effRol, effRor, effInc, effDec]
  case sta | stx | sty => simp [effect, effSta, effStx, effSty]
  case tax | tay | txa | tya | tsx | txs | inx | iny | dex | dey => simp [effect, setANZ, setXNZ, setYNZ]
  case clc | sec | cli | sei | clv | cld | sed | nop => simp [effect]
  case bpl | bmi | bvc | bvs | bcc | bcs | bne | beq => simp [effect]
  case pha | php | pla | plp => simp [effect, pull_eq, setANZ]
  case jmp | jsr | rts => simp [effect, effJmp, effJsr, effRts, pull_eq]
  case rti => simp [effect, returnFromHandler_eq]
  case brk =>
    obtain ⟨_, _, _, h⟩ := effect_brk_spec o s
    simp [h]

/-- Settles O36: a next state is the mnemonic's effect, and each register's rule lists the effects that write it. -/
theorem registersOnlyTheirWritersChange : Obligations.RegistersOnlyTheirWritersChange := by
  intro i s t h
  rw [exec_eq_effect] at h
  cases h
  exact ⟨effect_keeps_a i s, effect_keeps_x_y_sp_pc i.mnemonic i.operand s⟩

/-! ## D is not read -/

theorem withD_ramMirror (d : Bool) (s : State) : (withD d s).ramMirror = s.ramMirror := rfl
theorem withD_pc (d : Bool) (s : State) : (withD d s).pc = s.pc := rfl
theorem withD_flags (d : Bool) (s : State) : (withD d s).flags = { s.flags with d := d } := rfl

theorem portRead_withD (p : Port) (d : Bool) (s : State) :
    portRead p (withD d s) = ((portRead p s).1, withD d (portRead p s).2) := by
  cases p <;> rfl

/-- A bus read neither reads D nor writes it (20_memory.md R204). -/
theorem memRead_withD (a : Word) (d : Bool) (s : State) :
    memRead a (withD d s) = ((memRead a s).1, withD d (memRead a s).2) := by
  unfold memRead
  rw [withD_ramMirror]
  cases busRegion s.ramMirror a
  case port p => exact portRead_withD p d s
  all_goals rfl

theorem portWrite_withD (p : Port) (v : Byte) (d : Bool) (s : State) :
    portWrite p v (withD d s) = withD d (portWrite p v s) := by
  cases p
  case ppuCtrl => simp only [portWrite, writeCtrl, apply_ite (withD d)]; rfl
  all_goals rfl

theorem dmaByte_withD (page i : Byte) (d : Bool) (s : State) :
    dmaByte page i (withD d s) = withD d (dmaByte page i s) := by
  simp only [dmaByte, memRead_withD]
  rfl

theorem dmaFrom_withD (page : Byte) (i n : Nat) (d : Bool) (s : State) :
    dmaFrom page i n (withD d s) = withD d (dmaFrom page i n s) := by
  induction n generalizing i s with
  | zero => rfl
  | succ n ih => rw [dmaFrom, dmaByte_withD, ih, dmaFrom]

/-- A bus write neither reads D nor writes it (20_memory.md R205). -/
theorem memWrite_withD (a : Word) (v : Byte) (d : Bool) (s : State) :
    memWrite a v (withD d s) = withD d (memWrite a v s) := by
  unfold memWrite
  rw [withD_ramMirror]
  cases busRegion s.ramMirror a
  case port p => exact portWrite_withD p v d s
  case oamDma => exact dmaFrom_withD v 0 256 d s
  case cart cell => simp only [apply_ite (withD d)]; rfl
  all_goals rfl

theorem push_withD (v : Byte) (d : Bool) (s : State) : push v (withD d s) = withD d (push v s) := by
  simp only [push_eq]
  rfl

theorem pull_withD (d : Bool) (s : State) : pull (withD d s) = ((pull s).1, withD d (pull s).2) := by
  simp only [pull_eq]
  rfl

theorem resolve_withD (o : Operand) (d : Bool) (s : State) :
    resolve o (withD d s) = ((resolve o s).1, withD d (resolve o s).2) := by
  cases o
  case ind w => simp only [resolve, pageWrapPointer, memRead_withD]
  case izx n => simp only [resolve, zeroPagePointer_eq]; rfl
  case izy n => simp only [resolve, zeroPagePointer_eq]; rfl
  all_goals rfl

theorem operandAt_withD (ea : Resolved) (d : Bool) (s : State) :
    operandAt ea (withD d s) = ((operandAt ea s).1, withD d (operandAt ea s).2) := by
  cases ea
  case addr a => exact memRead_withD a d s
  all_goals rfl

theorem storeAt_withD (ea : Resolved) (v : Byte) (d : Bool) (s : State) :
    storeAt ea v (withD d s) = withD d (storeAt ea v s) := by
  cases ea
  case addr a => exact memWrite_withD a v d s
  all_goals rfl

theorem jumpTo_withD (ea : Resolved) (d : Bool) (s : State) : jumpTo ea (withD d s) = withD d (jumpTo ea s) := by
  cases ea <;> rfl

theorem loadOperand_withD (o : Operand) (d : Bool) (s : State) :
    loadOperand o (withD d s) = ((loadOperand o s).1, withD d (loadOperand o s).2) := by
  simp only [loadOperand, resolve_withD, operandAt_withD]

theorem storeOperand_withD (o : Operand) (v : Byte) (d : Bool) (s : State) :
    storeOperand o v (withD d s) = withD d (storeOperand o v s) := by
  simp only [storeOperand, resolve_withD, storeAt_withD]

/-- A read-modify-write whose result and flags do not depend on D does not either. -/
theorem modifyOperand_withD {res : Flags → Byte → Byte} {fl : Flags → Byte → Flags} {d : Bool}
    (hres : ∀ f v, res { f with d := d } v = res f v)
    (hfl : ∀ f v, fl { f with d := d } v = { fl f v with d := d }) (o : Operand) (s : State) :
    modifyOperand res fl o (withD d s) = withD d (modifyOperand res fl o s) := by
  simp only [modifyOperand, resolve_withD, operandAt_withD, withD_flags, hres, hfl, storeAt_withD]
  rfl

theorem branchEffect_withD (c : Bool) (o : Operand) (d : Bool) (s : State) :
    branchEffect c o (withD d s) = withD d (branchEffect c o s) := by
  simp only [branchEffect, resolve_withD, jumpTo_withD, apply_ite (withD d)]

/-- An instruction that neither writes D nor pushes it acts the same whatever D is, and leaves D as it was (10_state.md
R109, 45_arith.md R913). -/
theorem effect_withD {m : Mnemonic} (h : m ∉ [Mnemonic.cld, .sed, .plp, .rti, .php, .brk]) (o : Operand) (d : Bool)
    (s : State) : effect m o (withD d s) = withD d (effect m o s) := by
  cases m
  case cld | sed | plp | rti | php | brk => simp at h
  case ora | and | eor | bit | adc | sbc | cmp | cpx | cpy | lda | ldx | ldy =>
    simp only [effect, effOra, effAnd, effEor, effBit, effAdc, effSbc, effCmp, effCpx, effCpy, effLda, effLdx, effLdy,
      loadOperand_withD]
    rfl
  case asl | lsr | rol | ror | inc | dec =>
    simp only [effect, effAsl, effLsr, effRol, effRor, effInc, effDec]
    exact modifyOperand_withD (fun _ _ => rfl) (fun _ _ => rfl) o s
  case sta | stx | sty => exact storeOperand_withD o _ d s
  case bpl | bmi | bvc | bvs | bcc | bcs | bne | beq => exact branchEffect_withD _ o d s
  case pha => exact push_withD s.a d s
  case pla => simp only [effect, pull_withD]; rfl
  case jmp => simp only [effect, effJmp, resolve_withD, jumpTo_withD]
  case jsr => simp only [effect, effJsr, resolve_withD, withD_pc, push_withD, jumpTo_withD]
  case rts => simp only [effect, effRts, pull_withD]; rfl
  case clc | sec | cli | sei | clv | tax | tay | txa | tya | tsx | txs | inx | iny | dex | dey | nop => rfl

/-- An instruction that writes D leaves the same state whatever D was (10_state.md R109). -/
theorem effect_withD_of_writer {m : Mnemonic} (h : m ∈ [Mnemonic.cld, .sed, .plp, .rti]) (o : Operand) (d : Bool)
    (s : State) : effect m o (withD d s) = effect m o s := by
  cases m
  case cld | sed => rfl
  case plp => simp only [effect, pull_eq]; rfl
  case rti => simp only [effect, returnFromHandler_eq]; rfl
  all_goals simp at h

/-- Settles O56: by what an instruction does with D replaced, and by the writers of D. -/
theorem decimalFlagIsNotRead : Obligations.DecimalFlagIsNotRead := by
  intro i s t d h
  simp only [exec_eq_effect] at h ⊢
  cases h
  refine ⟨fun hm => congrArg _ (effect_withD hm i.operand d s),
    fun hm => congrArg _ (effect_withD_of_writer hm i.operand d s), fun hm => ?_⟩
  obtain ⟨-, -, -, hd, -⟩ := effect_keeps_flags i.mnemonic i.operand s
  exact hd (by simp at hm ⊢; tauto)

/-! ## Reset -/

/-- Settles O58: at reset all four stores list no cell. -/
theorem invAtReset : Obligations.InvAtReset := ⟨rfl, rfl, rfl, rfl⟩

end Sys2Proof.Proofs.StateFamily
end

section
/-! The memory family (20_memory.md): what a bus access reads, writes and leaves alone, the folding of the PPU address space,
and the invariant of the four stores along every step, every schedule and every power-on. -/

namespace Sys2Proof.Proofs.MemoryFamily

open Sys2Proof.Machine Sys2Proof.Safety Sys2Proof.Laws Sys2Proof.Laws.Bus Sys2Proof.Laws.Exec Sys2Proof.Laws.Frames
  Sys2Proof.Laws.Closed

/-! ## The invariant along a step -/

/-- The invariant does not see the NMI latch. -/
theorem coreInv_setNmi {s : State} (b : Bool) (h : CoreInv s) : CoreInv (s.setNmi b) := h

/-- The invariant does not see PC and the fault, which is what an undefined opcode changes (60_exceptions.md R1601). -/
theorem coreInv_haltUndefined {s : State} (op : Byte) (pc : Word) (h : CoreInv s) : CoreInv (haltUndefined op pc s) := h

/-- The state any step leaves, a faulting one included, has the invariant (60_exceptions.md R1606). -/
theorem coreInv_leaves {s : State} (h : CoreInv s) : CoreInv (leaves s) := by
  rcases leaves_cases s with ⟨_, _, hl, _⟩ | ⟨_, _, hl, _⟩ | ⟨_, _, _, _, hl, _⟩ | ⟨_, op, t, hf, hl, _⟩ |
    ⟨_, i, t, hf, hl, _⟩ <;> rw [hl]
  · exact h
  · exact invStep.enterHandler _ _ _ _ (coreInv_setNmi false h)
  · exact invStep.enterHandler _ _ _ _ h
  · exact coreInv_haltUndefined op s.pc ((invStep.fetchInstr s).1 op t hf h)
  · exact invStep.effect _ _ _ ((invStep.fetchInstr s).2 i t hf h)

/-- A step that answers a next state leaves that state. -/
theorem leaves_of_step {s t : State} (h : step s = .next t) : leaves s = t := by
  rcases leaves_cases s with ⟨_, _, _, hs⟩ | ⟨_, _, hl, hs⟩ | ⟨_, _, _, _, hl, hs⟩ | ⟨_, _, _, _, _, hs⟩ |
    ⟨_, _, _, _, hl, hs⟩ <;> rw [hs] at h <;> cases h
  all_goals exact hl

/-- Settles O59: a step is bus accesses and changes of registers, each of which keeps the invariant. -/
theorem stepKeepsInv : Obligations.StepKeepsInv :=
  fun _ h => ⟨fun _ ht => leaves_of_step ht ▸ coreInv_leaves h, coreInv_leaves h⟩

/-! ## The invariant along a schedule -/

/-- The PPU's part of the invariant: vram, OAM and the frame buffer. -/
def PpuInv (p : Ppu) : Prop := vramWf p = true ∧ oamWf p = true ∧ fbWf p = true

theorem coreInv_setPpu {s : State} {p : Ppu} (h : CoreInv s) (hp : PpuInv p) : CoreInv (s.setPpu p) := ⟨h.1, hp⟩

theorem ppuInv_plot {p : Ppu} (x y : Int) (px : Pixel) (h : PpuInv p) : PpuInv (plot x y px p) := by
  obtain ⟨hv, ho, hf⟩ := h
  have hf' := Vram.fbWf_plot (x := x) (y := y) (px := px) hf
  obtain ⟨fb, e⟩ := Vram.plot_frame x y px p
  rw [e] at hf' ⊢
  exact ⟨hv, ho, hf'⟩

/-- The background compositor keeps the PPU's stores canonical: it only plots (49_ppu_compositors.md R1307). -/
theorem ppuInv_renderBgTile {p : Ppu} (tx ty sx sy ms : Byte) (h : PpuInv p) : PpuInv (renderBgTile tx ty sx sy ms p) :=
  Render.fold_keeps (P := PpuInv) (fun _ _ => ppuInv_plot _ _ _) p h

/-- The sprite compositor keeps the PPU's stores canonical: it plots or skips (49_ppu_compositors.md R1313). -/
theorem ppuInv_renderSprite {p : Ppu} (x y tile a : Byte) (h : PpuInv p) : PpuInv (renderSprite x y tile a p) := by
  refine Render.fold_keeps (fun q rc hq => ?_) p h
  cases spritePixel p tile a rc.1 rc.2 with
  | none => exact hq
  | some px => exact ppuInv_plot _ _ _ hq

theorem coreInv_beginVBlank {s : State} (h : CoreInv s) : CoreInv (beginVBlank s) := by
  unfold beginVBlank
  split
  · exact coreInv_setNmi true (coreInv_setPpu h h.2)
  · exact coreInv_setPpu h h.2

/-- Every operation of the driver keeps the invariant: only the compositors write a store (48_ppu_ports.md R1215,
49_ppu_compositors.md R1316). -/
theorem coreInv_driverStep {s : State} (d : DriverOp) (h : CoreInv s) : CoreInv (driverStep d s) := by
  cases d with
  | beginVBlank => exact coreInv_beginVBlank h
  | endVBlank | setSprite0Hit b | setSpriteOverflow b | setScanline n | raiseNmi | setIrq b => exact h
  | renderBgTile tx ty sx sy ms => exact coreInv_setPpu h (ppuInv_renderBgTile tx ty sx sy ms h.2)
  | renderSprite x y tile a => exact coreInv_setPpu h (ppuInv_renderSprite x y tile a h.2)

theorem coreInv_act {s : State} (a : Action) (h : CoreInv s) : CoreInv (act a s) := by
  cases a with
  | cpu => exact coreInv_leaves h
  | driver d => exact coreInv_driverStep d h

theorem coreInv_runSchedule {s : State} (schedule : List Action) (h : CoreInv s) : CoreInv (runSchedule schedule s) := by
  induction schedule generalizing s with
  | nil => exact h
  | cons a as ih => exact ih (coreInv_act a h)

/-! ## The invariant at power-on -/

/-- Storing in a cell that exists keeps the CPU memory well formed. -/
theorem cpuMemoryWf_memPut {s : State} {m : Memory} {k : Nat} (v : Byte) (hk : isCpuCell s.ramMirror k = true)
    (h : cpuMemoryWf (s.setMem m) = true) : cpuMemoryWf (s.setMem (memPut k v m)) = true := by
  simp only [cpuMemoryWf, Bool.and_eq_true] at h ⊢
  exact ⟨Memory.wf_memPut h.1, Memory.all_put h.2 hk⟩

/-- The cartridge's bytes of CPU space land in cells that exist (48_ppu_ports.md R1217). -/
theorem cpuMemoryWf_loadPrg (s : State) (prg : List (Word × Byte)) : cpuMemoryWf (s.setMem (loadPrg prg)) = true := by
  refine Render.fold_keeps (P := fun m => cpuMemoryWf (s.setMem m) = true) (fun m c hm => ?_) [] rfl
  split
  next hc =>
    refine cpuMemoryWf_memPut c.2 ?_ hm
    have := c.1.isLt
    simp only [isCpuCell, Bool.or_eq_true, Bool.and_eq_true, decide_eq_true_eq]
    omega
  next => exact hm

/-- A pattern address is its own cell (20_memory.md R222). -/
theorem canon_pattern (m : Mirroring) {a : Nat} (h : a ≤ 0x1FFF) : canon m a = a := by
  have hmod : a % 0x4000 = a := by omega
  simp only [canon, hmod, if_pos h]

/-- The cartridge's bytes of the pattern region land in canonical cells (48_ppu_ports.md R1217). -/
theorem vramWf_loadChr (p : Ppu) (chr : List (BitVec 14 × Byte)) : vramWf { p with vram := loadChr chr } = true := by
  refine Render.fold_keeps (P := fun m => vramWf { p with vram := m } = true) (fun m c hm => ?_) [] rfl
  split
  next hc =>
    have hw := Vram.vramWf_vramWrite (a := c.1.toNat) (v := c.2) hm
    simpa only [vramWrite, canon_pattern _ hc] using hw
  next => exact hm

/-- Power-on with any cartridge and parameters establishes the invariant (70_reset_and_hazards.md R1700). -/
theorem coreInv_powerOn (rm cw : Bool) (c : Cartridge) : CoreInv (powerOn rm cw c) :=
  invStep.read16 resetVector (populate c { State.reset with ramMirror := rm, cartWritable := cw })
    ⟨cpuMemoryWf_loadPrg { State.reset with ramMirror := rm, cartWritable := cw } c.prg,
      vramWf_loadChr { Ppu.reset with mirroring := c.mirroring } c.chr, rfl, rfl⟩

/-- Settles O60: by induction over the schedule, each action keeping the invariant, from the power-on that establishes it. -/
theorem scheduleKeepsInv : Obligations.ScheduleKeepsInv :=
  ⟨coreInv_powerOn, fun schedule _ => coreInv_runSchedule schedule⟩

/-! ## Reads of the bus -/

/-- A read of $2000-$3FFF is that of its port address (48_ppu_ports.md R1200). -/
theorem memRead_port_mirror {a : Word} (h : 0x2000 ≤ a.toNat) (h' : a.toNat ≤ 0x3FFF) (s : State) :
    memRead a s = memRead (BitVec.ofNat 16 (0x2000 + a.toNat % 8)) s := by
  simp only [memRead, busRegion_port s.ramMirror h h', busRegion_port_mirror]

/-- A read of the I/O window draws a value and advances the draw counter (20_memory.md R204, R207). -/
theorem memRead_io {a : Word} (h : 0x4000 ≤ a.toNat) (h' : a.toNat ≤ 0x401F) (s : State) :
    ∃ v, memRead a s = (v, { s with draws := s.draws + 1 }) := by
  unfold memRead
  rcases busRegion_io s.ramMirror h h' with ⟨-, hr⟩ | ⟨-, hr⟩ <;> rw [hr] <;> exact ⟨_, rfl⟩

/-- The only ports whose reads have a side effect are at offsets 2 and 7 (48_ppu_ports.md R1203, R1210). -/
theorem portRead_draws {n : Nat} (h2 : n % 8 ≠ 2) (h7 : n % 8 ≠ 7) (s : State) :
    ∃ k, (portRead (portOf n) s).2 = { s with draws := k } := by
  have hport : n % 8 = 4 ∨ n % 8 = 0 ∨ n % 8 = 1 ∨ n % 8 = 3 ∨ n % 8 = 5 ∨ n % 8 = 6 := by omega
  unfold portOf
  rcases hport with h | h | h | h | h | h <;> rw [h]
  · exact ⟨s.draws, rfl⟩
  all_goals exact ⟨_, rfl⟩

/-- A read outside the ports at offsets 2 and 7 changes nothing but the draw counter (20_memory.md R204). -/
theorem memRead_draws {a : Word}
    (h : ¬ (0x2000 ≤ a.toNat ∧ a.toNat ≤ 0x3FFF ∧ (a.toNat % 8 = 2 ∨ a.toNat % 8 = 7))) (s : State) :
    ∃ n, (memRead a s).2 = { s with draws := n } := by
  unfold memRead
  rcases busRegion_cases s.ramMirror a with ⟨_, hr⟩ | ⟨hle, hge, hr⟩ | ⟨_, hr⟩ | ⟨_, _, _, hr⟩ | ⟨_, hr⟩ <;> rw [hr]
  · exact ⟨s.draws, rfl⟩
  · exact portRead_draws (by omega) (by omega) s
  · exact ⟨_, rfl⟩
  · exact ⟨_, rfl⟩
  · exact ⟨s.draws, rfl⟩

/-- RAM folded to 2 KiB keeps the low 11 bits of the address (20_memory.md R206). -/
theorem toNat_and_x7FF (a : Word) : (a &&& 0x07FF).toNat = a.toNat % 0x800 := by
  rw [BitVec.toNat_and]
  exact Nat.and_two_pow_sub_one_eq_mod a.toNat 11

/-- Settles O40: one clause for each range of the bus map. -/
theorem busReads : Obligations.BusReads := by
  intro a s
  refine ⟨fun h hm => ?_, fun h hm => ?_, fun h h' => memRead_port_mirror h h' s, fun h h' => memRead_io h h' s,
    fun h => memRead_cart h s, readEffect_memRead a s, fun h => memRead_draws h s, fun v => memRead_of_byteAt⟩
  · simp [memRead_ram h, hm]
  · rw [memRead_ram h, hm, if_pos rfl, toNat_and_x7FF]

/-! ## Writes of the bus -/

/-- A write to RAM, or to cartridge space that is writable, stores in the cell its address selects and does nothing else
(20_memory.md R205). -/
theorem memWrite_cell {a : Word} {s : State} (h : a.toNat ≤ 0x1FFF ∨ 0x4020 ≤ a.toNat ∧ s.cartWritable = true)
    (v : Byte) :
    ∃ cell, (busRegion s.ramMirror a = .ram cell ∨ busRegion s.ramMirror a = .cart cell) ∧
      memWrite a v s = s.setMem (memPut cell v s.mem) := by
  rcases h with h | ⟨h, hw⟩
  · exact ⟨_, .inl (busRegion_ram h), memWrite_ram h v s⟩
  · exact ⟨_, .inr (busRegion_cart h), by simp [memWrite, busRegion_cart h, hw]⟩

/-- A write of $2000-$3FFF is that of its port address (48_ppu_ports.md R1200). -/
theorem memWrite_port_mirror {a : Word} (h : 0x2000 ≤ a.toNat) (h' : a.toNat ≤ 0x3FFF) (v : Byte) (s : State) :
    memWrite a v s = memWrite (BitVec.ofNat 16 (0x2000 + a.toNat % 8)) v s := by
  simp only [memWrite, busRegion_port s.ramMirror h h', busRegion_port_mirror]

/-- A write of a port leaves the CPU memory alone (20_memory.md R205). -/
theorem memWrite_port_mem {a : Word} (h : 0x2000 ≤ a.toNat) (h' : a.toNat ≤ 0x3FFF) (v : Byte) (s : State) :
    (memWrite a v s).mem = s.mem := by
  obtain ⟨_, _, e, -⟩ := portWrite_frame (portOf (a.toNat % 8)) v s
  rw [Ports.memWrite_port h h', e]

/-- OAM DMA leaves the CPU memory alone (48_ppu_ports.md R1214). -/
theorem oamDma_mem (page : Byte) (s : State) : (oamDma page s).mem = s.mem := by
  obtain ⟨_, _, e, -⟩ := dmaFrom_frame page 256 0 s
  rw [oamDma, e]

/-- Two RAM addresses select one cell where they agree, modulo 2 KiB under RAM_MIRROR (20_memory.md R206). -/
theorem sameByte_ram {s : State} {a b : Word} (ha : a.toNat ≤ 0x1FFF) (hb : b.toNat ≤ 0x1FFF) :
    SameByte s b a ↔ if s.ramMirror then b.toNat % 0x800 = a.toNat % 0x800 else b = a := by
  rw [SameByte, busRegion_ram ha, busRegion_ram hb]
  cases s.ramMirror <;> simp [BitVec.toNat_inj]

/-- An address of cartridge space shares its cell with no other (20_memory.md R208). -/
theorem sameByte_cart {s : State} {a b : Word} (ha : 0x4020 ≤ a.toNat) : SameByte s b a ↔ b = a := by
  refine ⟨fun h => ?_, fun h => h ▸ rfl⟩
  rw [SameByte, busRegion_cart ha] at h
  exact BitVec.eq_of_toNat_eq (busRegion_cart_ge h).2.symm

/-- Settles O41: one clause for each range of the bus map. -/
theorem busWrites : Obligations.BusWrites := by
  intro a v s hwf
  refine ⟨fun h => ?_, fun h hw => ?_, fun h h' hne => ?_,
    fun h h' => ⟨memWrite_port_mirror h h' v s, memWrite_port_mem h h' v s⟩, oamDma_mem v s,
    fun b => sameByte_ram, fun b => sameByte_cart⟩
  · obtain ⟨cell, hc, e⟩ := memWrite_cell h v
    rw [e]
    exact ⟨byteAt_setMem v hwf hc, rfl⟩
  · simp [memWrite, busRegion_cart h, hw]
  · rcases busRegion_io s.ramMirror h h' with ⟨e, -⟩ | ⟨-, hr⟩
    · exact absurd e hne
    · simp only [memWrite, hr]

/-! ## Stores to an operand -/

/-- A form that stores to its operand is a state that reads led to, one store at the resolved operand, and the flags
(42_shift.md R604, 46_load_store.md R1003). -/
theorem effect_stores {m : Mnemonic} (h : storesToOperand m = true) (o : Operand) (s : State) :
    ∃ v u f, ReadEffect s u ∧ effect m o s = (storeAt (resolve o s).1 v u).setFlags f := by
  have store : ∀ v, ∃ v' u f, ReadEffect s u ∧ storeOperand o v s = (storeAt (resolve o s).1 v' u).setFlags f := by
    intro v
    obtain ⟨u, hu, e⟩ := storeOperand_spec o v s
    exact ⟨v, u, _, hu, e.trans (State.setFlags_self _).symm⟩
  have modify : ∀ res fl, ∃ v u f, ReadEffect s u ∧
      modifyOperand res fl o s = (storeAt (resolve o s).1 v u).setFlags f := by
    intro res fl
    obtain ⟨v, u, hu, e⟩ := modifyOperand_spec res fl o s
    exact ⟨_, u, _, hu, e⟩
  cases m
  case sta | stx | sty => exact store _
  case asl | lsr | rol | ror | inc | dec =>
    simp only [effect, effAsl, effLsr, effRol, effRor, effInc, effDec]
    exact modify _ _
  all_goals cases h

/-- Settles O38: the one store is a bus write at the effective address, and reads move no cell. -/
theorem storingFormsKeepOtherBytes : Obligations.StoringFormsKeepOtherBytes := by
  intro i s t w ea hx hm hr a ha
  rw [exec_eq_effect] at hx
  cases hx
  obtain ⟨v, u, f, hu, e⟩ := effect_stores hm i.operand s
  rw [e, hr]
  calc byteAt (memWrite ea v u) a
    _ = byteAt u a := memWrite_other (mt (sameByte_read hu a ea).1 ha)
    _ = byteAt s a := byteAt_read hu a

/-! ## Self-modifying code -/

/-- The fetch of a one-byte instruction whose opcode stands at PC (40_addressing.md R402). -/
theorem fetchInstr_of_byteAt {s : State} {i : Instr} (hb : i.operand.bytes = []) (h : byteAt s s.pc = some i.opcode) :
    fetchInstr s = .instr i (s.setPc (s.pc + 1)) := by
  have hf : opForm i.opcode = some (.f1 i) := by
    rcases Decode.opForm_opcode i with ⟨-, hf⟩ | ⟨_, _, -, hb', -⟩ | ⟨_, _, -, hb', -⟩
    · exact hf
    · simp [hb] at hb'
    · simp [hb] at hb'
  simp only [fetchInstr, fetch8_of_byteAt h, hf]

/-- Settles O7: the store changes the cell behind PC only, so the next poll fetches and finds the opcode there. -/
theorem storeIsSeenByTheNextFetch : Obligations.StoreIsSeenByTheNextFetch := by
  intro s i hs hwf hb ha hpc
  obtain ⟨cell, hc, e⟩ := memWrite_cell hpc s.a
  have hx : exec (.staAbs s.pc) s = .next (s.setMem (memPut cell s.a s.mem)) := by rw [← e]; rfl
  have hbyte := (byteAt_setMem s.a hwf hc s.pc).1 rfl
  rw [ha] at hx hbyte
  have ht : Fetches (s.setMem (memPut cell i.opcode s.mem)) := hs
  refine ⟨_, hx, ?_⟩
  rw [step_of_fetches ht, fetchInstr_of_byteAt hb hbyte]
  rfl

/-! ## The PPU address space -/

/-- An address is reduced modulo $4000 before it is folded (20_memory.md R220). -/
theorem canon_mod (m : Mirroring) (a : Nat) : canon m (a % 0x4000) = canon m a := by
  simp only [canon, Nat.mod_mod]

/-- A nametable address in closed form: the physical nametable of its quadrant, and the offset (20_memory.md R223). -/
theorem canon_nametable (m : Mirroring) {a : Nat} (h : 0x2000 ≤ a) (h' : a ≤ 0x3EFF) :
    canon m a = 0x2000 + 0x400 * physNT m (a % 0x1000 / 0x400) + a % 0x400 := by
  have hmod : a % 0x4000 = a := by omega
  have hq : (a - 0x2000) % 0x1000 = a % 0x1000 := by omega
  have ho : a % 0x1000 % 0x400 = a % 0x400 := by omega
  simp only [canon, hmod, if_neg (show ¬ a ≤ 0x1FFF by omega), if_pos h', hq, ho]

/-- $3000-$3EFF repeats $2000-$2EFF (20_memory.md R222). -/
theorem canon_repeat (m : Mirroring) {a : Nat} (h : 0x3000 ≤ a) (h' : a ≤ 0x3EFF) : canon m a = canon m (a - 0x1000) := by
  have hq : (a - 0x1000) % 0x1000 = a % 0x1000 := by omega
  have ho : (a - 0x1000) % 0x400 = a % 0x400 := by omega
  rw [canon_nametable m (by omega) h', canon_nametable m (by omega) (by omega), hq, ho]

/-- The place off of quadrant q (20_memory.md R223). -/
theorem canon_quadrant (m : Mirroring) {q off : Nat} (hq : q < 4) (ho : off < 0x400) :
    canon m (0x2000 + 0x400 * q + off) = 0x2000 + 0x400 * physNT m q + off := by
  have e : (0x2000 + 0x400 * q + off) % 0x1000 / 0x400 = q := by omega
  have e' : (0x2000 + 0x400 * q + off) % 0x400 = off := by omega
  rw [canon_nametable m (by omega) (by omega), e, e']

/-- A palette address is reduced to its low five bits (20_memory.md R224). -/
theorem canon_palette (m : Mirroring) {k p : Nat} (hk : k < 8) (hp : p < 32) :
    canon m (0x3F00 + 32 * k + p) = 0x3F00 + paletteCell p := by
  have hmod : (0x3F00 + 32 * k + p) % 0x4000 = 0x3F00 + 32 * k + p := by omega
  have hlow : (0x3F00 + 32 * k + p) % 0x20 = p := by omega
  simp only [canon, hmod, hlow, if_neg (show ¬ 0x3F00 + 32 * k + p ≤ 0x1FFF by omega),
    if_neg (show ¬ 0x3F00 + 32 * k + p ≤ 0x3EFF by omega)]

/-- The palette cells $10, $14, $18 and $1C are $00, $04, $08 and $0C (20_memory.md R224). -/
theorem paletteCell_eq (p : Nat) :
    0x3F00 + paletteCell p = if p ∈ [0x10, 0x14, 0x18, 0x1C] then 0x3F00 + p - 0x10 else 0x3F00 + p := by
  simp only [paletteCell, List.mem_cons, List.not_mem_nil, or_false]
  split <;> omega

/-- A write is seen at exactly the addresses of its cell (20_memory.md R225). -/
theorem vramRead_vramWrite {p : Ppu} (hp : vramWf p = true) (a b : Nat) (v : Byte) :
    vramRead (vramWrite p a v) b = if canon p.mirroring b = canon p.mirroring a then v else vramRead p b := by
  split
  next h => exact Vram.vramRead_vramWrite_same hp h
  next h => exact Vram.vramRead_vramWrite_other h

/-- Settles O47: one clause for each range of the PPU address space. -/
theorem vramMirrors : Obligations.VramMirrors := by
  refine ⟨fun m a => ⟨canon_mod m a, Vram.canon_isVramCell m a⟩, fun m a => canon_pattern m, fun m a => canon_repeat m,
    fun q off hq ho => ?_, fun m k p hk hp => (canon_palette m hk hp).trans (paletteCell_eq p),
    fun p a b v hp => ⟨vramRead_vramWrite hp a b v, rfl⟩⟩
  rw [canon_quadrant _ hq ho, canon_quadrant _ hq ho]
  interval_cases q <;> exact ⟨rfl, rfl⟩

end Sys2Proof.Proofs.MemoryFamily
end

section
/-! The encoding family (30_encoding.md): the decoder and the encoder undo one another, and the opcode map with the undefined
bytes covers every byte once. -/

namespace Sys2Proof.Proofs.EncodingFamily

open Sys2Proof.Safety Sys2Proof.Laws.Decode

/-! ## What the decoder answers -/

/-- The decoder reads an instruction in one of the three formats of 30_encoding.md R300, each with all its bytes. -/
theorem decode_eq_ok_iff {bytes rest : List Byte} {i : Instr} :
    decode bytes = .ok i rest ↔
      (∃ op, opForm op = some (.f1 i) ∧ bytes = op :: rest) ∨
      (∃ op f n, opForm op = some (.f2 f) ∧ i = f n ∧ bytes = op :: n :: rest) ∨
      (∃ op f lo hi, opForm op = some (.f3 f) ∧ i = f (joinBytes hi lo) ∧ bytes = op :: lo :: hi :: rest) := by
  constructor
  · intro h
    unfold decode at h
    split at h
    case h_1 => cases h
    case h_2 op tail =>
      split at h
      case h_1 => cases h
      case h_2 hf => cases h; exact .inl ⟨op, hf, rfl⟩
      case h_3 f hf =>
        split at h
        case h_1 n _ => cases h; exact .inr (.inl ⟨op, f, n, hf, rfl, rfl⟩)
        case h_2 => cases h
      case h_4 f hf =>
        split at h
        case h_1 lo hi _ => cases h; exact .inr (.inr ⟨op, f, lo, hi, hf, rfl, rfl⟩)
        case h_2 => cases h
  · rintro (⟨op, hf, rfl⟩ | ⟨op, f, n, hf, rfl, rfl⟩ | ⟨op, f, lo, hi, hf, rfl, rfl⟩) <;> simp only [decode, hf]

/-- The decoder refuses an opcode byte exactly when dispatch finds no row for it (40_addressing.md R403). -/
theorem decode_eq_undefinedOpcode_iff {op : Byte} {rest : List Byte} :
    decode (op :: rest) = .undefinedOpcode op ↔ opForm op = none := by
  refine ⟨fun h => ?_, fun h => by simp only [decode, h]⟩
  simp only [decode] at h
  split at h
  case h_1 hf => exact hf
  case h_2 => cases h
  case h_3 => split at h <;> cases h
  case h_4 => split at h <;> cases h

/-! ## The round trips -/

/-- Every instruction is read back from its encoding: its own row reads its operand bytes. -/
theorem decode_encode (i : Instr) (rest : List Byte) : decode (encode i ++ rest) = .ok i rest := by
  rw [decode_eq_ok_iff, encode]
  rcases opForm_opcode i with ⟨hb, hf⟩ | ⟨f, n, hi, hb, hf⟩ | ⟨f, w, hi, hb, hf⟩
  · exact .inl ⟨_, hf, by rw [hb]; rfl⟩
  · exact .inr (.inl ⟨_, f, n, hf, hi, by rw [hb]; rfl⟩)
  · exact .inr (.inr ⟨_, f, _, _, hf, by rw [joinBytes_high_low, hi], by rw [hb]; rfl⟩)

/-- Settles O1: every instruction of the syntax is well formed, so that premise is not used. -/
theorem decodeUndoesEncode : Obligations.DecodeUndoesEncode :=
  fun i rest _ => decode_encode i rest

/-- An instruction's encoding is determined by its opcode byte and its operand bytes. -/
theorem encode_of_opcode {i : Instr} {op : Byte} {bs : List Byte} (hop : i.opcode.toNat = op.toNat)
    (hb : i.operand.bytes = bs) : encode i = op :: bs := by
  rw [encode, hb, BitVec.eq_of_toNat_eq hop]

/-- The instruction the decoder reads is well formed, and the bytes begin with its encoding (30_encoding.md R301). -/
theorem encode_of_decode {bytes rest : List Byte} {i : Instr} (h : decode bytes = .ok i rest) :
    i.wellFormed = true ∧ bytes = encode i ++ rest := by
  rcases decode_eq_ok_iff.1 h with ⟨op, hf, rfl⟩ | ⟨op, f, n, hf, rfl, rfl⟩ | ⟨op, f, lo, hi, hf, rfl, rfl⟩
  · obtain ⟨hop, hb, hw⟩ := goodRow_of_opForm hf
    exact ⟨hw, by rw [encode_of_opcode hop hb]; rfl⟩
  · obtain ⟨hop, hb, hw⟩ := goodRow_of_opForm hf n
    exact ⟨hw, by rw [encode_of_opcode hop hb]; rfl⟩
  · obtain ⟨hop, hb, hw⟩ := goodRow_of_opForm hf (joinBytes hi lo)
    rw [lowByte_joinBytes, highByte_joinBytes] at hb
    exact ⟨hw, by rw [encode_of_opcode hop hb]; rfl⟩

/-- The encoding is as long as the addressing mode says (30_encoding.md R300). -/
theorem encode_length (i : Instr) : (encode i).length = i.operand.mode.length := by
  rw [encode]
  cases i.operand <;> rfl

/-- Settles O2: by the format of the row that the decoder read. -/
theorem encodeUndoesDecode : Obligations.EncodeUndoesDecode := fun _ _ i h =>
  have ⟨hw, he⟩ := encode_of_decode h
  ⟨hw, he, encode_length i⟩

/-! ## The 256 opcode bytes -/

/-- An opcode byte has a row exactly when it is the opcode of an instruction (30_encoding.md R303). -/
theorem opForm_ne_none_iff (op : Byte) : opForm op ≠ none ↔ ∃ i : Instr, i.opcode = op := by
  constructor
  · intro h
    obtain ⟨form, hf⟩ := Option.ne_none_iff_exists'.1 h
    cases form with
    | f1 i => exact ⟨i, BitVec.eq_of_toNat_eq (goodRow_of_opForm hf).1⟩
    | f2 f => exact ⟨f 0, BitVec.eq_of_toNat_eq (goodRow_of_opForm hf 0).1⟩
    | f3 f => exact ⟨f 0, BitVec.eq_of_toNat_eq (goodRow_of_opForm hf 0).1⟩
  · rintro ⟨i, rfl⟩
    rcases opForm_opcode i with ⟨-, hf⟩ | ⟨_, _, -, -, hf⟩ | ⟨_, _, -, -, hf⟩ <;> simp [hf]

/-- Settles O3: the listed bytes are those for which dispatch finds no row, and every row is an instruction's. -/
theorem everyByteIsARowOrUndefined : Obligations.EveryByteIsARowOrUndefined := by
  refine ⟨rfl, by decide, fun op rest => ?_, fun op => ?_, decode_encode .brk⟩
  · rw [decode_eq_undefinedOpcode_iff, opForm_eq_none]
  · rw [← opForm_eq_none, ← opForm_ne_none_iff]

/-- Settles O4: each word, written out, is the encoding of its instruction. -/
theorem writtenOutWordsDecode : Obligations.WrittenOutWordsDecode :=
  ⟨decode_encode (.oraImm 0xF0) [], decode_encode (.bitAbs 0x2002) [], decode_encode (.rorAbs 0x0300) [],
    decode_encode .aslAcc [], decode_encode (.bpl 0xFE) [], decode_encode .sei [], decode_encode (.adcIzx 0xFF) [],
    decode_encode (.cmpIzy 0x20) [], decode_encode (.ldxZpy 0xFF) [], decode_encode (.staAbx 0x1234) [],
    decode_encode .txs [], decode_encode (.jmpInd 0x02FF) [], decode_encode (.jsr 0x9000) []⟩

end Sys2Proof.Proofs.EncodingFamily
end

section
/-! The addressing family (40_addressing.md): the fetch of an instruction's bytes through the bus, the effective address of each
mode, the access to an operand, and the forms that reach memory by reads only. -/

namespace Sys2Proof.Proofs.AddressingFamily

open Sys2Proof.Machine Sys2Proof.Safety Sys2Proof.Laws Sys2Proof.Laws.Bus Sys2Proof.Laws.Operands Sys2Proof.Laws.Exec
  Sys2Proof.Laws.Frames Sys2Proof.Laws.Decode

/-! ## The fetch -/

/-- Dispatch finds a one-byte row for an instruction with no operand byte (30_encoding.md R300). -/
theorem opForm_of_bytes_nil {i : Instr} (hb : i.operand.bytes = []) : opForm i.opcode = some (.f1 i) := by
  rcases opForm_opcode i with ⟨-, hf⟩ | ⟨_, _, -, hb', -⟩ | ⟨_, _, -, hb', -⟩
  · exact hf
  · simp [hb] at hb'
  · simp [hb] at hb'

/-- Dispatch finds a two-byte row for an instruction with one operand byte (30_encoding.md R300). -/
theorem opForm_of_bytes_one {i : Instr} {n : Byte} (hb : i.operand.bytes = [n]) :
    ∃ f, opForm i.opcode = some (.f2 f) ∧ f n = i := by
  rcases opForm_opcode i with ⟨hb', -⟩ | ⟨f, m, hi, hb', hf⟩ | ⟨_, _, -, hb', -⟩
  · simp [hb] at hb'
  · obtain rfl : n = m := by simpa [hb] using hb'
    exact ⟨f, hf, hi.symm⟩
  · simp [hb] at hb'

/-- Dispatch finds a three-byte row for an instruction with two operand bytes (30_encoding.md R300, R302). -/
theorem opForm_of_bytes_two {i : Instr} {lo hi : Byte} (hb : i.operand.bytes = [lo, hi]) :
    ∃ f, opForm i.opcode = some (.f3 f) ∧ f (joinBytes hi lo) = i := by
  rcases opForm_opcode i with ⟨hb', -⟩ | ⟨_, _, -, hb', -⟩ | ⟨f, w, hi, hb', hf⟩
  · simp [hb] at hb'
  · simp [hb] at hb'
  · obtain ⟨rfl, rfl⟩ : lo = lowByte w ∧ _ = highByte w := by simpa [hb] using hb'
    exact ⟨f, hf, by rw [joinBytes_high_low, hi]⟩

/-- The fetch of a one-byte row is the opcode's bus read (40_addressing.md R402). -/
theorem fetchInstr_f1 {s : State} {i : Instr} (hf : opForm (memRead s.pc s).1 = some (.f1 i)) :
    fetchInstr s = .instr i ((memRead s.pc s).2.setPc (s.pc + 1)) := by
  simp only [fetchInstr, fetch8_eq s, hf]

/-- The fetch of a two-byte row reads its operand byte after the opcode (40_addressing.md R404). -/
theorem fetchInstr_f2 {s t : State} {f : Byte → Instr} {n : Byte} (hf : opForm (memRead s.pc s).1 = some (.f2 f))
    (hn : memRead (s.pc + 1) (memRead s.pc s).2 = (n, t)) : fetchInstr s = .instr (f n) (t.setPc (s.pc + 2)) := by
  have h2 : s.pc + 1 + 1 = s.pc + 2 := BitVec.add_assoc ..
  simp only [fetchInstr, fetch8_eq s, hf, fetch8_setPc, hn, h2]

/-- The fetch of a three-byte row reads its low and then its high operand byte (40_addressing.md R404). -/
theorem fetchInstr_f3 {s t u : State} {f : Word → Instr} {lo hi : Byte}
    (hf : opForm (memRead s.pc s).1 = some (.f3 f)) (hlo : memRead (s.pc + 1) (memRead s.pc s).2 = (lo, t))
    (hhi : memRead (s.pc + 2) t = (hi, u)) : fetchInstr s = .instr (f (joinBytes hi lo)) (u.setPc (s.pc + 3)) := by
  have h2 : s.pc + 1 + 1 = s.pc + 2 := BitVec.add_assoc ..
  have h3 : s.pc + 2 + 1 = s.pc + 3 := BitVec.add_assoc ..
  simp only [fetchInstr, fetch8_eq s, hf, fetch8_setPc, hlo, h2, hhi, h3]

/-- A step that fetches an instruction is its meaning after the fetch (60_exceptions.md R1606). -/
theorem step_of_fetchInstr {s t : State} {i : Instr} (hs : Fetches s) (h : fetchInstr s = .instr i t) :
    step s = exec i t := by
  rw [step_of_fetches hs, h]

/-- Settles O6: one clause for each format, by the row that dispatch finds for the opcode. -/
theorem fetchGoesThroughTheBus : Obligations.FetchGoesThroughTheBus := by
  intro s i hs hop
  refine ⟨fun hb => ?_, fun n t hb hn => ?_, fun lo hi t u hb hlo hhi => ?_⟩
  · have hf := opForm_of_bytes_nil hb
    exact step_of_fetchInstr hs (fetchInstr_f1 (hop ▸ hf))
  · obtain ⟨f, hf, rfl⟩ := opForm_of_bytes_one hb
    exact step_of_fetchInstr hs (fetchInstr_f2 (hop ▸ hf) hn)
  · obtain ⟨f, hf, rfl⟩ := opForm_of_bytes_two hb
    exact step_of_fetchInstr hs (fetchInstr_f3 (hop ▸ hf) hlo hhi)

/-- Settles O5: the bytes are the instruction's encoding, and the bus reads of its fetch find them with no side effect. -/
theorem stepRunsTheDecodedInstruction : Obligations.StepRunsTheDecodedInstruction := by
  intro s i bytes hs hd hbytes
  obtain ⟨hw, he⟩ := EncodingFamily.encode_of_decode hd
  rw [List.append_nil, encode] at he
  subst he
  have hread : ∀ k b, (i.opcode :: i.operand.bytes)[k]? = some b → memRead (s.pc + BitVec.ofNat 16 k) s = (b, s) :=
    fun k b h => memRead_of_byteAt (hbytes k b h)
  have h0 : memRead s.pc s = (i.opcode, s) := by simpa using hread 0 i.opcode rfl
  obtain ⟨step1, step2, step3⟩ := fetchGoesThroughTheBus s i hs (congrArg Prod.fst h0)
  rw [h0] at step1 step2 step3
  refine ⟨hw, ?_⟩
  rcases opForm_opcode i with ⟨hb, -⟩ | ⟨_, n, -, hb, -⟩ | ⟨_, w, -, hb, -⟩ <;> rw [hb] at hread ⊢
  · exact step1 hb
  · exact step2 n s hb (hread 1 n rfl)
  · exact step3 _ _ s s hb (hread 1 _ rfl) (hread 2 _ rfl)

/-! ## Effective addresses -/

/-- A byte as a zero-page address (40_addressing.md R407). -/
theorem zext16_eq_ofNat (b : Byte) : zext16 b = BitVec.ofNat 16 b.toNat := (BitVec.ofNat_toNat 16 b).symm

/-- An indexed zero-page address wraps in page 0 (40_addressing.md R408, R409). -/
theorem zext16_add (a b : Byte) : zext16 (a + b) = BitVec.ofNat 16 ((a.toNat + b.toNat) % 256) := by
  rw [zext16_eq_ofNat, BitVec.toNat_add]

/-- The byte after an indexed pointer's first byte wraps in page 0 (40_addressing.md R414). -/
theorem zext16_add_one (a b : Byte) : zext16 (a + b + 1) = BitVec.ofNat 16 ((a.toNat + b.toNat + 1) % 256) := by
  rw [zext16_add, BitVec.toNat_add]
  show BitVec.ofNat 16 (((a.toNat + b.toNat) % 256 + 1) % 256) = _
  rw [Nat.mod_add_mod]

/-- An indexed absolute address wraps modulo 65536 (40_addressing.md R411, R412). -/
theorem add_zext16 (w : Word) (b : Byte) : w + zext16 b = BitVec.ofNat 16 (w.toNat + b.toNat) := by
  apply BitVec.eq_of_toNat_eq
  rw [BitVec.toNat_add, zext16_toNat, BitVec.toNat_ofNat]

/-- Sign extension keeps the signed value (00_scope.md R14). -/
theorem sext16_eq_ofInt (b : Byte) : sext16 b = BitVec.ofInt 16 b.toInt := by
  by_cases h : b.toNat < 128
  · have hb : b.toInt = b.toNat := BitVec.toInt_eq_toNat_of_lt (by omega)
    rw [sext16, if_pos h, hb, BitVec.ofInt_natCast, BitVec.ofNat_toNat]
  · have hb : b.toInt = b.toNat + -256 := by
      rw [BitVec.toInt_eq_toNat_cond, if_neg (by omega)]
      rfl
    rw [sext16, if_neg h, hb, BitVec.ofInt_add, BitVec.ofInt_natCast, BitVec.ofNat_toNat]
    rfl

/-- A relative target is PC plus the signed offset (40_addressing.md R416). -/
theorem add_sext16 (w : Word) (b : Byte) : w + sext16 b = BitVec.ofInt 16 (w.toNat + b.toInt) := by
  rw [sext16_eq_ofInt, BitVec.ofInt_add, BitVec.ofInt_natCast, BitVec.ofNat_toNat, BitVec.setWidth_eq]

/-- A word from its two bytes in memory (20_memory.md R201). -/
theorem joinBytes_eq_ofNat (hi lo : Byte) : joinBytes hi lo = BitVec.ofNat 16 (256 * hi.toNat + lo.toNat) := by
  rw [← joinBytes_toNat, BitVec.ofNat_toNat, BitVec.setWidth_eq]

/-- Every byte of page 0 is a byte of RAM, also when RAM_MIRROR folds it (20_memory.md R206). -/
theorem byteAt_zeroPage (s : State) (p : Byte) : byteAt s (zext16 p) = some (memGet s.mem p.toNat) := by
  have hp := p.isLt
  have hle : (zext16 p).toNat ≤ 0x1FFF := by rw [zext16_toNat]; omega
  have hmod : p.toNat % 0x800 = p.toNat := by omega
  simp only [byteAt, busRegion_ram hle, zext16_toNat, hmod, ite_self]

/-- A pointer in page 0 is the word of the bytes at p and at p + 1, which wraps in page 0, and reading it changes nothing
(40_addressing.md R414, R415). -/
theorem zeroPagePointer_bytes (p : Byte) (s : State) :
    ∃ lo hi, byteAt s (zext16 p) = some lo ∧ byteAt s (zext16 (p + 1)) = some hi ∧
      zeroPagePointer p s = (BitVec.ofNat 16 (256 * hi.toNat + lo.toNat), s) :=
  ⟨_, _, byteAt_zeroPage s p, byteAt_zeroPage s (p + 1), by rw [zeroPagePointer_eq, joinBytes_eq_ofNat]⟩

/-- Settles O33: each mode's address in arithmetic, and the pointers of page 0 read without a side effect. -/
theorem effectiveAddresses : Obligations.EffectiveAddresses := by
  intro s n w
  refine ⟨rfl, rfl, ?_, ?_, ?_, rfl, ?_, ?_, ?_, ?_, ?_⟩
  · rw [resolve, zext16_eq_ofNat]
  · rw [resolve, zext16_add]
  · rw [resolve, zext16_add]
  · rw [resolve, add_zext16]
  · rw [resolve, add_zext16]
  · rw [resolve, add_sext16]
  · obtain ⟨lo, hi, hlo, hhi, hp⟩ := zeroPagePointer_bytes (n + s.x) s
    rw [zext16_add] at hlo
    rw [zext16_add_one] at hhi
    exact ⟨lo, hi, hlo, hhi, by rw [resolve, hp]⟩
  · obtain ⟨lo, hi, hlo, hhi, hp⟩ := zeroPagePointer_bytes n s
    rw [zext16_eq_ofNat] at hlo
    rw [zext16_add] at hhi
    refine ⟨lo, hi, hlo, hhi, ?_⟩
    rw [resolve, hp, zext16_eq_ofNat, ← BitVec.ofNat_add]

/-! ## Access to an operand -/

/-- Reading an operand is what its resolver's answer gives in the state the resolver leaves (40_addressing.md R417). -/
theorem loadOperand_of_resolve {o : Operand} {s t : State} {r : Resolved} (h : resolve o s = (r, t)) :
    loadOperand o s = operandAt r t := by
  rw [loadOperand, h]

/-- Settles O34: one clause for each answer of the resolver. -/
theorem operandAccess : Obligations.OperandAccess := by
  intro o s
  refine ⟨fun t h => ⟨loadOperand_of_resolve h, fun v => rfl⟩, fun n => rfl,
    fun ea t h => ⟨loadOperand_of_resolve h, fun v => rfl, fun v hv => ?_⟩, readEffect_loadOperand o s,
    fun h => resolve_state h s⟩
  exact (loadOperand_of_resolve h).trans (memRead_of_byteAt hv)

/-! ## Forms that neither store nor push -/

/-- A form that neither pushes nor stores to memory is a state that reads led to, and changes of registers and flags
(40_addressing.md R418). -/
theorem effect_reads {m : Mnemonic} {o : Operand} (hp : pushes m = false)
    (hm : storesToOperand m = false ∨ o = .acc) (s : State) :
    ∃ u, ReadEffect s u ∧ ∃ a x y sp pc f,
      effect m o s = { u with a := a, x := x, y := y, sp := sp, pc := pc, flags := f } := by
  cases m
  case pha | php | jsr | brk => cases hp
  case sta | stx | sty | asl | lsr | rol | ror | inc | dec =>
    obtain rfl : o = .acc := hm.resolve_left (by decide)
    exact ⟨s, readEffect_refl s, _, _, _, _, _, _, rfl⟩
  case ora | and | eor | bit | adc | sbc | cmp | cpx | cpy | lda | ldx | ldy =>
    exact ⟨_, readEffect_loadOperand o s, _, _, _, _, _, _, rfl⟩
  case bpl | bmi | bvc | bvs | bcc | bcs | bne | beq =>
    obtain ⟨pc, h⟩ := StateFamily.branchEffect_spec _ o s
    exact ⟨_, readEffect_resolve o s, _, _, _, _, pc, _, h⟩
  case jmp =>
    obtain ⟨pc, h⟩ := jumpTo_spec (resolve o s).1 (resolve o s).2
    exact ⟨_, readEffect_resolve o s, _, _, _, _, pc, _, h⟩
  case pla | plp | rts =>
    refine ⟨s, readEffect_refl s, ?_⟩
    simp only [effect, effRts, pull_eq]
    exact ⟨_, _, _, _, _, _, rfl⟩
  case rti => exact ⟨s, readEffect_refl s, _, _, _, _, _, _, returnFromHandler_eq s⟩
  case clc | sec | cli | sei | clv | cld | sed | tax | tay | txa | tya | tsx | txs | inx | iny | dex | dey | nop =>
    exact ⟨s, readEffect_refl s, _, _, _, _, _, _, rfl⟩

/-- Settles O37: reads and changes of registers move no cell and no PPU field but those of a bus read. -/
theorem formsThatStoreNothingKeepMemory : Obligations.FormsThatStoreNothingKeepMemory := by
  intro i s t hx hp hm
  rw [exec_eq_effect] at hx
  cases hx
  obtain ⟨u, ⟨vb, w, rb, va, n, rfl⟩, _, _, _, _, _, _, e⟩ := effect_reads hp hm s
  rw [e]
  exact ⟨fun _ => rfl, rfl, rfl, vb, w, rb, va, rfl⟩

end Sys2Proof.Proofs.AddressingFamily
end

section
/-! The logical family (41_logical.md): ORA, AND, EOR and BIT, each as one equation for its next state, with exactly its rows
of the opcode map. -/

namespace Sys2Proof.Proofs.LogicalFamily

open Sys2Proof.Machine Sys2Proof.Laws.Operands Sys2Proof.Laws.Exec Sys2Proof.Laws.Flags Sys2Proof.Laws.Decode

/-- Reading the operand byte leaves A and the flags as they were (40_addressing.md R417). -/
theorem a_flags_of_loadOperand {o : Operand} {s t : State} {m : Byte} (h : loadOperand o s = (m, t)) :
    t.a = s.a ∧ t.flags = s.flags :=
  ⟨by simpa [h] using loadOperand_a o s, by simpa [h] using loadOperand_flags o s⟩

/-- Writing a result to A with its N and Z changes nothing else (41_logical.md R500). -/
theorem setANZ_eq (r : Byte) (s : State) :
    setANZ r s = { s with a := r, flags := { s.flags with n := decide (128 ≤ r.toNat), z := decide (r = 0) } } := by
  rw [setANZ, setNZ_eq]
  rfl

/-- ORA, AND and EOR put A combined with the operand byte into A, with its N and Z (41_logical.md R500 to R502). -/
theorem effect_logical {mn : Mnemonic} {o : Operand} {s t : State} {m r : Byte} (h : loadOperand o s = (m, t))
    (hr : mn = .ora ∧ r = s.a ||| m ∨ mn = .and ∧ r = s.a &&& m ∨ mn = .eor ∧ r = s.a ^^^ m) :
    effect mn o s = setANZ r t := by
  obtain ⟨ha, -⟩ := a_flags_of_loadOperand h
  rcases hr with ⟨rfl, rfl⟩ | ⟨rfl, rfl⟩ | ⟨rfl, rfl⟩
  · rw [effect, effOra, h, ← ha]
  · rw [effect, effAnd, h, ← ha]
  · rw [effect, effEor, h, ← ha]

/-- Settles O14: the rows by the check of the opcode map, and the result by the effect shared by the three. -/
theorem oraAndEorResults : Obligations.OraAndEorResults := by
  refine ⟨hasRows_of_check (by decide +kernel), hasRows_of_check (by decide +kernel),
    hasRows_of_check (by decide +kernel), fun i s t m r h hr => ?_⟩
  obtain ⟨-, hf⟩ := a_flags_of_loadOperand h
  rw [exec_eq_effect, effect_logical h hr, setANZ_eq, hf]

/-- BIT's flags as arithmetic: N and V by the weight of bits 7 and 6 of the memory byte (41_logical.md R503). -/
theorem bitFlags_eq (f : Flags) (a m : Byte) :
    bitFlags f a m =
      { f with z := decide (a &&& m = 0), n := decide (128 ≤ m.toNat), v := decide (64 ≤ m.toNat % 128) } := by
  rw [bitFlags, bit7_eq, bit6_eq]

/-- BIT writes its flags in the state that the operand's read leaves, and no register (41_logical.md R503). -/
theorem effect_bit {o : Operand} {s t : State} {m : Byte} (h : loadOperand o s = (m, t)) :
    effect .bit o s = t.setFlags (bitFlags s.flags s.a m) := by
  obtain ⟨ha, hf⟩ := a_flags_of_loadOperand h
  rw [effect, effBit, h, ← ha, ← hf]

/-- Settles O15: the rows by the check of the opcode map, and the result by BIT's effect with its flags as arithmetic. -/
theorem bitResult : Obligations.BitResult := by
  refine ⟨hasRows_of_check (by decide +kernel), fun i s t m h hm => ?_⟩
  rw [exec_eq_effect, hm, effect_bit h, bitFlags_eq]
  rfl

end Sys2Proof.Proofs.LogicalFamily
end

section
/-! The shift family (42_shift.md): ASL, LSR, ROL and ROR as one read of the operand, one store of the result to the same place
and one write of the flags, with exactly their rows of the opcode map. -/

namespace Sys2Proof.Proofs.ShiftFamily

open Sys2Proof.Machine Sys2Proof.Laws.Exec Sys2Proof.Laws.Flags Sys2Proof.Laws.Decode

/-- C from the bit shifted out, N and Z from the result, and V, D and I kept (42_shift.md R600). -/
theorem setNZC_eq (f : Flags) (r : Byte) (c : Bool) :
    setNZC f r c = { f with c := c, n := decide (128 ≤ r.toNat), z := decide (r = 0) } := by
  rw [setNZC, setNZ_eq]

/-- LSR clears N as its result's bit 7 would, so its flags have the form of the other three (42_shift.md R601). -/
theorem lsrFlags_eq_setNZC (f : Flags) (v : Byte) : lsrFlags f v = setNZC f (lsrResult v) (v.getLsbD 0) := by
  rw [setNZC_eq, lsrResult_bit7, lsrFlags]

/-- A shift or rotate, its result and carry given by arithmetic, is one store of that result to the place the operand was
read from, and then the flags (42_shift.md R600 to R603). -/
theorem effect_shift {mn : Mnemonic} {o : Operand} {s t u : State} {ea : Resolved} {v r : Byte} {c : Bool}
    (hr : resolve o s = (ea, t)) (ho : operandAt ea t = (v, u))
    (h : mn = .asl ∧ r.toNat = 2 * v.toNat % 256 ∧ c = decide (128 ≤ v.toNat) ∨
      mn = .lsr ∧ r.toNat = v.toNat / 2 ∧ c = decide (v.toNat % 2 = 1) ∨
      mn = .rol ∧ r.toNat = (2 * v.toNat + s.flags.c.toNat) % 256 ∧ c = decide (128 ≤ v.toNat) ∨
      mn = .ror ∧ r.toNat = v.toNat / 2 + 128 * s.flags.c.toNat ∧ c = decide (v.toNat % 2 = 1)) :
    effect mn o s = (storeAt ea r u).setFlags (setNZC s.flags r c) := by
  rcases h with ⟨rfl, hv, rfl⟩ | ⟨rfl, hv, rfl⟩ | ⟨rfl, hv, rfl⟩ | ⟨rfl, hv, rfl⟩
  · obtain rfl := byte_ext (hv.trans (aslResult_toNat v).symm)
    rw [effect, effAsl, modifyOperand_eq hr ho, aslFlags, bit7_eq]
  · obtain rfl := byte_ext (hv.trans (lsrResult_toNat v).symm)
    rw [effect, effLsr, modifyOperand_eq hr ho, lsrFlags_eq_setNZC, bit0_eq]
  · obtain rfl := byte_ext (hv.trans (rolResult_toNat s.flags.c v).symm)
    rw [effect, effRol, modifyOperand_eq hr ho, rolFlags, bit7_eq]
  · obtain rfl := byte_ext (hv.trans (rorResult_toNat s.flags.c v).symm)
    rw [effect, effRor, modifyOperand_eq hr ho, rorFlags, bit0_eq]

/-- Settles O16: the rows by the check of the opcode map, and the result by the effect shared by the four. -/
theorem shiftResults : Obligations.ShiftResults := by
  refine ⟨hasRows_of_check (by decide +kernel), hasRows_of_check (by decide +kernel),
    hasRows_of_check (by decide +kernel), hasRows_of_check (by decide +kernel),
    fun i s t u ea v r c hr ho h => ?_⟩
  rw [exec_eq_effect, effect_shift hr ho h, setNZC_eq]
  rfl

end Sys2Proof.Proofs.ShiftFamily
end

section
/-! The branch family (43_branch.md): the eight conditional branches as one effect, a choice of PC by a condition on one flag,
each with its one row of the opcode map. -/

namespace Sys2Proof.Proofs.BranchFamily

open Sys2Proof.Machine Sys2Proof.Laws.Exec Sys2Proof.Laws.Decode

/-- A branch on a relative operand reads no memory: it moves PC by the signed offset, or changes nothing (43_branch.md
R700). -/
theorem branchEffect_rel (cond : Bool) (off : Byte) (s : State) :
    branchEffect cond (.rel off) s =
      { s with pc := if cond then BitVec.ofInt 16 (s.pc.toNat + off.toInt) else s.pc } := by
  cases cond
  case false => rfl
  case true =>
    rw [if_pos rfl, ← AddressingFamily.add_sext16]
    rfl

/-- Settles O17: the rows by the check of the opcode map, and the result by the effect shared by the eight, each under its own
condition. -/
theorem branchResults : Obligations.BranchResults := by
  refine ⟨hasRows_of_check (by decide +kernel), hasRows_of_check (by decide +kernel),
    hasRows_of_check (by decide +kernel), hasRows_of_check (by decide +kernel),
    hasRows_of_check (by decide +kernel), hasRows_of_check (by decide +kernel),
    hasRows_of_check (by decide +kernel), hasRows_of_check (by decide +kernel), fun s off i cond h => ?_⟩
  rw [exec_eq_effect, ← branchEffect_rel]
  simp only [List.mem_cons, List.not_mem_nil, or_false, Prod.mk.injEq] at h
  rcases h with ⟨rfl, rfl⟩ | ⟨rfl, rfl⟩ | ⟨rfl, rfl⟩ | ⟨rfl, rfl⟩ | ⟨rfl, rfl⟩ | ⟨rfl, rfl⟩ | ⟨rfl, rfl⟩ | ⟨rfl, rfl⟩ <;> rfl

end Sys2Proof.Proofs.BranchFamily
end

section
/-! The flag family (44_flags.md): the seven instructions that write one flag each, with their one row of the opcode map, and
the polls that a change of I decides and that a pending NMI decides without it. -/

namespace Sys2Proof.Proofs.FlagFamily

open Sys2Proof.Machine Sys2Proof.Laws.Exec Sys2Proof.Laws.Decode

/-- A pending NMI is taken whatever I is and whether or not the IRQ line is asserted (60_exceptions.md R1606). -/
theorem step_of_nmiPending {s : State} (hf : s.fault = none) (hn : s.nmiPending = true) : step s = .next (takeNmi s) := by
  simp only [step, stepEvent, hf, hn, if_true]

/-- With no NMI pending, an IRQ that I does not mask is taken (60_exceptions.md R1606). -/
theorem step_of_unmaskedIrq {s : State} (hf : s.fault = none) (hn : s.nmiPending = false) (hq : s.irqLine = true)
    (hi : s.flags.i = false) : step s = .next (takeIrq s) := by
  simp [step, stepEvent, hf, hn, hq, hi]

/-- The state after CLI polls as the state before it, but with the IRQ unmasked (44_flags.md R802). -/
theorem step_after_cli {s t : State} (hf : s.fault = none) (hq : s.irqLine = true) (hn : s.nmiPending = false)
    (ht : exec .cli s = .next t) : step t = .next (takeIrq t) := by
  rw [exec_eq_effect] at ht
  cases ht
  exact step_of_unmaskedIrq hf hn hq rfl

/-- After SEI no IRQ is polled in, asserted or not (44_flags.md R803). -/
theorem fetches_after_sei {s t : State} (hf : s.fault = none) (hn : s.nmiPending = false)
    (ht : exec .sei s = .next t) : Safety.Fetches t := by
  rw [exec_eq_effect] at ht
  cases ht
  exact ⟨hf, hn, .inr rfl⟩

/-- SEI does not hold off a pending NMI (44_flags.md R803). -/
theorem step_after_sei_of_nmiPending {s t : State} (hf : s.fault = none) (hn : s.nmiPending = true)
    (ht : exec .sei s = .next t) : step t = .next (takeNmi t) := by
  rw [exec_eq_effect] at ht
  cases ht
  exact step_of_nmiPending hf hn

/-- Settles O18: the rows by the check of the opcode map, the results by the effect of each mnemonic, and the polls by what
CLI and SEI leave in I. -/
theorem flagInstructionResults : Obligations.FlagInstructionResults := by
  refine ⟨hasRows_of_check (by decide +kernel), hasRows_of_check (by decide +kernel),
    hasRows_of_check (by decide +kernel), hasRows_of_check (by decide +kernel),
    hasRows_of_check (by decide +kernel), hasRows_of_check (by decide +kernel),
    hasRows_of_check (by decide +kernel), fun s => ?_⟩
  refine ⟨exec_eq_effect .clc s, exec_eq_effect .sec s, exec_eq_effect .cli s, exec_eq_effect .sei s,
    exec_eq_effect .clv s, exec_eq_effect .cld s, exec_eq_effect .sed s, fun hf hq hn => ⟨fun t ht => ?_, fun t ht => ?_⟩,
    fun hf hn t ht => ?_⟩
  · exact step_after_cli hf hq hn ht
  · exact fetches_after_sei hf hn ht
  · exact step_after_sei_of_nmiPending hf hn ht

end Sys2Proof.Proofs.FlagFamily
end

section
/-! The arithmetic family (45_arith.md): ADC and SBC with their carry and overflow as arithmetic, the compares, and the increments
and decrements of memory and of X and Y, each with exactly its rows of the opcode map. -/

namespace Sys2Proof.Proofs.ArithFamily

open Sys2Proof.Machine Sys2Proof.Laws.Operands Sys2Proof.Laws.Exec Sys2Proof.Laws.Flags Sys2Proof.Laws.Decode
  Sys2Proof.Laws.Frames Sys2Proof.Proofs.LogicalFamily

/-! ## ADC -/

theorem adcResult_toNat (a m : Byte) (c : Bool) : (adcResult a m c).toNat = (a.toNat + m.toNat + c.toNat) % 256 := by
  rw [adcResult, bitNat_eq, BitVec.toNat_ofNat]

theorem eq_adcResult_of_toNat {a m r : Byte} {c : Bool} (h : r.toNat = (a.toNat + m.toNat + c.toNat) % 256) :
    r = adcResult a m c :=
  byte_ext (h.trans (adcResult_toNat a m c).symm)

/-- V of ADC is set where the signed result is not the signed sum (45_arith.md R900, R901). -/
theorem adcOverflow_eq (a m : Byte) (c : Bool) :
    adcOverflow a m c = decide ((adcResult a m c).toInt ≠ a.toInt + m.toInt + c.toNat) := by
  rw [adcOverflow, decide_eq_decide]
  exact overflow_add a m _ c (adcResult_toNat a m c)

/-- ADC puts the sum into A and writes the flags, in the state that the operand's read leaves (45_arith.md R901). -/
theorem effect_adc {o : Operand} {s t : State} {m : Byte} (h : loadOperand o s = (m, t)) :
    effect .adc o s = (t.setA (adcResult s.a m s.flags.c)).setFlags (adcFlags s.flags s.a m) := by
  obtain ⟨ha, hf⟩ := a_flags_of_loadOperand h
  rw [effect, effAdc, h, ← ha, ← hf]

/-! ## SBC -/

theorem sbcDiff_eq (a m : Byte) (c : Bool) : sbcDiff a m c = (a.toNat : Int) - m.toNat - (1 - c.toNat) := by
  rw [sbcDiff, bitNat_eq]

theorem sbcResult_toNat (a m : Byte) (c : Bool) : ((sbcResult a m c).toNat : Int) = sbcDiff a m c % 256 := by
  rw [sbcResult, BitVec.toNat_ofInt]
  omega

theorem eq_sbcResult_of_toNat {a m r : Byte} {c : Bool}
    (h : (r.toNat : Int) = ((a.toNat : Int) - m.toNat - (1 - c.toNat)) % 256) : r = sbcResult a m c := by
  apply byte_ext
  rw [← Int.ofNat_inj, h, sbcResult_toNat, sbcDiff_eq]

/-- V of SBC is set where the signed result is not the signed difference (45_arith.md R900, R902). -/
theorem sbcOverflow_eq (a m : Byte) (c : Bool) :
    sbcOverflow a m c = decide ((sbcResult a m c).toInt ≠ a.toInt - m.toInt - (1 - c.toNat)) := by
  rw [sbcOverflow, decide_eq_decide]
  exact overflow_sub a m _ c (by rw [sbcResult_toNat, sbcDiff_eq])

/-- SBC puts the difference into A and writes the flags, in the state that the operand's read leaves (45_arith.md R902). -/
theorem effect_sbc {o : Operand} {s t : State} {m : Byte} (h : loadOperand o s = (m, t)) :
    effect .sbc o s = (t.setA (sbcResult s.a m s.flags.c)).setFlags (sbcFlags s.flags s.a m) := by
  obtain ⟨ha, hf⟩ := a_flags_of_loadOperand h
  rw [effect, effSbc, h, ← ha, ← hf]

/-- The sum that ADC forms with the complement is SBC's difference plus 256 (45_arith.md R902). -/
theorem sum_complement_eq (a m : Byte) (c : Bool) :
    ((a.toNat + (~~~m).toNat + c.toNat : Nat) : Int) = sbcDiff a m c + 256 := by
  have := m.isLt
  rw [sbcDiff_eq, BitVec.toNat_not]
  omega

theorem sbcResult_eq_adcResult (a m : Byte) (c : Bool) : sbcResult a m c = adcResult a (~~~m) c := by
  apply byte_ext
  have := sum_complement_eq a m c
  have := sbcResult_toNat a m c
  rw [adcResult_toNat]
  omega

theorem sbcCarry_eq_adcCarry (a m : Byte) (c : Bool) : sbcCarry a m c = adcCarry a (~~~m) c := by
  have := sum_complement_eq a m c
  rw [sbcCarry, adcCarry, bitNat_eq, decide_eq_decide]
  omega

theorem sbcOverflow_eq_adcOverflow (a m : Byte) (c : Bool) : sbcOverflow a m c = adcOverflow a (~~~m) c := by
  have h : ~~~(a ^^^ ~~~m) = a ^^^ m := by rw [BitVec.not_xor_right, BitVec.not_not]
  rw [sbcOverflow, adcOverflow, h, sbcResult_eq_adcResult]

theorem sbcFlags_eq_adcFlags (f : Flags) (a m : Byte) : sbcFlags f a m = adcFlags f a (~~~m) := by
  rw [sbcFlags, adcFlags, sbcResult_eq_adcResult, sbcCarry_eq_adcCarry, sbcOverflow_eq_adcOverflow]

/-- SBC of a byte is ADC of its complement (45_arith.md R902). -/
theorem effect_sbc_imm (m : Byte) (s : State) : effect .sbc (.imm m) s = effect .adc (.imm (~~~m)) s := by
  have hm : loadOperand (.imm m) s = (m, s) := rfl
  have hn : loadOperand (.imm (~~~m)) s = (~~~m, s) := rfl
  rw [effect_sbc hm, effect_adc hn, sbcResult_eq_adcResult, sbcFlags_eq_adcFlags]

/-! ## The results of ADC and SBC -/

/-- Settles O19: the rows by the check of the opcode map, and the result by ADC's effect, with V read as a signed sum. -/
theorem adcResult : Obligations.AdcResult := by
  refine ⟨hasRows_of_check (by decide +kernel), ?_⟩
  rintro i s t m r _ _ _ h hm rfl hr rfl rfl
  obtain rfl := eq_adcResult_of_toNat hr
  rw [← adcOverflow_eq, exec_eq_effect, hm, effect_adc h, adcFlags, setNZ_eq, adcCarry, bitNat_eq]
  exact ⟨rfl, rfl⟩

/-- Settles O20: the rows by the check of the opcode map, the result by SBC's effect, with V read as a signed difference, and
ADC of the complement by the equality of result, carry and overflow. -/
theorem sbcResult : Obligations.SbcResult := by
  refine ⟨hasRows_of_check (by decide +kernel), ?_, fun m s => ?_⟩
  · rintro i s t m r _ _ _ h hm rfl hr rfl rfl
    obtain rfl := eq_sbcResult_of_toNat hr
    rw [← sbcOverflow_eq, exec_eq_effect, hm, effect_sbc h, sbcFlags, setNZ_eq, sbcCarry, sbcDiff_eq]
    exact ⟨rfl, rfl⟩
  · rw [exec_eq_effect, exec_eq_effect]
    exact congrArg _ (effect_sbc_imm m s)

/-! ## CMP, CPX and CPY -/

/-- The compare law as arithmetic: C, Z and N from the register less the operand byte (45_arith.md R903). -/
theorem compareFlags_eq (f : Flags) (r m : Byte) :
    compareFlags f r m =
      { f with
        c := decide (m.toNat ≤ r.toNat), z := decide (m.toNat = r.toNat)
        n := decide (128 ≤ (256 + r.toNat - m.toNat) % 256) } := by
  have hz : (r = m) ↔ m.toNat = r.toNat := eq_comm.trans BitVec.toNat_inj.symm
  have hn : (r - m).toNat = (256 + r.toNat - m.toNat) % 256 := by
    have := m.isLt
    rw [BitVec.toNat_sub]
    omega
  simp only [compareFlags, bit7_eq, hz, hn, ge_iff_le]

/-- A compare writes its flags in the state that the operand's read leaves, and no register (45_arith.md R904 to R906). -/
theorem effect_compare {mn : Mnemonic} {o : Operand} {s t : State} {m r : Byte} (h : loadOperand o s = (m, t))
    (hr : mn = .cmp ∧ r = s.a ∨ mn = .cpx ∧ r = s.x ∨ mn = .cpy ∧ r = s.y) :
    effect mn o s = t.setFlags (compareFlags s.flags r m) := by
  obtain ⟨ha, hf⟩ := a_flags_of_loadOperand h
  have hx : t.x = s.x := by simpa [h] using loadOperand_x o s
  have hy : t.y = s.y := by simpa [h] using loadOperand_y o s
  rcases hr with ⟨rfl, rfl⟩ | ⟨rfl, rfl⟩ | ⟨rfl, rfl⟩
  · rw [effect, effCmp, h, ← ha, ← hf]
  · rw [effect, effCpx, h, ← hx, ← hf]
  · rw [effect, effCpy, h, ← hy, ← hf]

/-- Settles O21: the rows by the check of the opcode map, and the flags by the effect shared by the three. -/
theorem compareResults : Obligations.CompareResults := by
  refine ⟨hasRows_of_check (by decide +kernel), hasRows_of_check (by decide +kernel),
    hasRows_of_check (by decide +kernel), fun i s t m r h hr => ?_⟩
  rw [exec_eq_effect, effect_compare h hr, compareFlags_eq]
  rfl

/-! ## Increments and decrements -/

theorem eq_add_one_of_toNat {v r : Byte} (h : r.toNat = (v.toNat + 1) % 256) : r = v + 1 :=
  byte_ext (h.trans (BitVec.toNat_add v 1).symm)

theorem eq_sub_one_of_toNat {v r : Byte} (h : r.toNat = (v.toNat + 255) % 256) : r = v - 1 := by
  apply byte_ext
  rw [h, BitVec.toNat_sub, Nat.add_comm]
  rfl

/-- INC and DEC are one bus read at the effective address, one bus write of the result there, and then N and Z (45_arith.md
R907, R908). -/
theorem effect_incDec {mn : Mnemonic} {o : Operand} {s u : State} {ea : Word} {v r : Byte}
    (ha : resolve o s = (.addr ea, s)) (hv : memRead ea s = (v, u))
    (h : mn = .inc ∧ r.toNat = (v.toNat + 1) % 256 ∨ mn = .dec ∧ r.toNat = (v.toNat + 255) % 256) :
    effect mn o s = (memWrite ea r u).setFlags (setNZ s.flags r) := by
  have ho : operandAt (.addr ea) s = (v, u) := hv
  rcases h with ⟨rfl, hr⟩ | ⟨rfl, hr⟩
  · rw [eq_add_one_of_toNat hr, effect, effInc, modifyOperand_eq ha ho, storeAt]
  · rw [eq_sub_one_of_toNat hr, effect, effDec, modifyOperand_eq ha ho, storeAt]

/-- Settles O22: the rows by the check of the opcode map, the address because no mode of INC or DEC lacks one, and the result
by the effect shared by the two. -/
theorem incDecMemoryResults : Obligations.IncDecMemoryResults := by
  refine ⟨hasRows_of_check (by decide +kernel), hasRows_of_check (by decide +kernel), fun i s hm => ?_⟩
  obtain ⟨ea, ha⟩ := resolve_addr (i := i) (by rcases hm with h | h <;> simp [h]) s
  refine ⟨ea, ha, fun v r u hv h => ?_⟩
  rw [exec_eq_effect, effect_incDec ha hv h, setNZ_eq]
  rfl

/-- N and Z as arithmetic, Z by the value of the byte (00_scope.md R15). -/
theorem setNZ_eq_toNat (f : Flags) (r : Byte) :
    setNZ f r = { f with n := decide (128 ≤ r.toNat), z := decide (r.toNat = 0) } := by
  have hz : r = 0 ↔ r.toNat = 0 := BitVec.toNat_inj.symm
  simp only [setNZ_eq, hz]

/-- Writing a result to X with its N and Z changes nothing else (45_arith.md R909, R911). -/
theorem setXNZ_eq (r : Byte) (s : State) :
    setXNZ r s =
      { s with x := r, flags := { s.flags with n := decide (128 ≤ r.toNat), z := decide (r.toNat = 0) } } := by
  rw [setXNZ, setNZ_eq_toNat]
  rfl

/-- Writing a result to Y with its N and Z changes nothing else (45_arith.md R910, R912). -/
theorem setYNZ_eq (r : Byte) (s : State) :
    setYNZ r s =
      { s with y := r, flags := { s.flags with n := decide (128 ≤ r.toNat), z := decide (r.toNat = 0) } } := by
  rw [setYNZ, setNZ_eq_toNat]
  rfl

/-- Settles O23: the rows by the check of the opcode map, and each result by the write of its register with N and Z. -/
theorem incDecRegisterResults : Obligations.IncDecRegisterResults := by
  refine ⟨hasRows_of_check (by decide +kernel), hasRows_of_check (by decide +kernel),
    hasRows_of_check (by decide +kernel), hasRows_of_check (by decide +kernel), fun s r => ?_⟩
  rw [← setXNZ_eq, ← setYNZ_eq]
  refine ⟨fun h => ?_, fun h => ?_, fun h => ?_, fun h => ?_⟩
  · rw [eq_add_one_of_toNat h]
    exact exec_eq_effect .inx s
  · rw [eq_add_one_of_toNat h]
    exact exec_eq_effect .iny s
  · rw [eq_sub_one_of_toNat h]
    exact exec_eq_effect .dex s
  · rw [eq_sub_one_of_toNat h]
    exact exec_eq_effect .dey s

end Sys2Proof.Proofs.ArithFamily
end

section
/-! The load and store family (46_load_store.md): a load as one operand read and the write of its register with N and Z, a
store as one bus write at the effective address, and the transfers and NOP, each with exactly its rows of the opcode map. -/

namespace Sys2Proof.Proofs.LoadStoreFamily

open Sys2Proof.Machine Sys2Proof.Laws.Bus Sys2Proof.Laws.Exec Sys2Proof.Laws.Flags Sys2Proof.Laws.Decode
  Sys2Proof.Laws.Frames Sys2Proof.Proofs.LogicalFamily

/-- Writing X with its N and Z changes nothing else, with Z by the byte and not by its value as a number
(46_load_store.md R1001, R1006, R1010). -/
theorem setXNZ_eq (r : Byte) (s : State) :
    setXNZ r s = { s with x := r, flags := { s.flags with n := decide (128 ≤ r.toNat), z := decide (r = 0) } } := by
  rw [setXNZ, setNZ_eq]
  rfl

/-- Writing Y with its N and Z changes nothing else, with Z by the byte and not by its value as a number
(46_load_store.md R1002, R1007). -/
theorem setYNZ_eq (r : Byte) (s : State) :
    setYNZ r s = { s with y := r, flags := { s.flags with n := decide (128 ≤ r.toNat), z := decide (r = 0) } } := by
  rw [setYNZ, setNZ_eq]
  rfl

/-- Settles O24: the rows by the check of the opcode map, and each result by the write of its register with N and Z in the
state that the operand's read leaves, whose flags are still the old ones. -/
theorem loadResults : Obligations.LoadResults := by
  refine ⟨hasRows_of_check (by decide +kernel), hasRows_of_check (by decide +kernel),
    hasRows_of_check (by decide +kernel), ?_⟩
  rintro i s t m _ h rfl
  obtain ⟨-, hf⟩ := a_flags_of_loadOperand h
  refine ⟨fun hm => ?_, fun hm => ?_, fun hm => ?_⟩ <;> rw [exec_eq_effect, hm, effect, ← hf]
  · rw [effLda, h, setANZ_eq]
  · rw [effLdx, h, setXNZ_eq]
  · rw [effLdy, h, setYNZ_eq]

/-- A store resolves its address, which reads nothing there, and makes one bus write of its register (46_load_store.md R1003
to R1005). -/
theorem effect_store {mn : Mnemonic} {o : Operand} {s : State} {ea : Word} {v : Byte} (ha : resolve o s = (.addr ea, s))
    (hv : mn = .sta ∧ v = s.a ∨ mn = .stx ∧ v = s.x ∨ mn = .sty ∧ v = s.y) :
    effect mn o s = memWrite ea v s := by
  have hw : storeOperand o v s = memWrite ea v s := by rw [storeOperand, ha, storeAt]
  rcases hv with ⟨rfl, rfl⟩ | ⟨rfl, rfl⟩ | ⟨rfl, rfl⟩ <;> exact hw

/-- Settles O25: the rows by the check of the opcode map, the address because no mode of a store lacks one, and the result by
the effect shared by the three. -/
theorem storeResults : Obligations.StoreResults := by
  refine ⟨hasRows_of_check (by decide +kernel), hasRows_of_check (by decide +kernel),
    hasRows_of_check (by decide +kernel), fun i s v hv => ?_⟩
  obtain ⟨ea, ha⟩ := resolve_addr (i := i) (by rcases hv with ⟨h, -⟩ | ⟨h, -⟩ | ⟨h, -⟩ <;> simp [h]) s
  exact ⟨ea, ha, by rw [exec_eq_effect, effect_store ha hv], memWrite_flags ea v s⟩

/-- Settles O26: the rows by the check of the opcode map, and each result by the write of the destination, with N and Z but
for TXS. -/
theorem transferAndNopResults : Obligations.TransferAndNopResults := by
  refine ⟨hasRows_of_check (by decide +kernel), hasRows_of_check (by decide +kernel),
    hasRows_of_check (by decide +kernel), hasRows_of_check (by decide +kernel),
    hasRows_of_check (by decide +kernel), hasRows_of_check (by decide +kernel),
    hasRows_of_check (by decide +kernel), fun s => ?_⟩
  rw [← setXNZ_eq, ← setYNZ_eq, ← setANZ_eq, ← setANZ_eq, ← setXNZ_eq]
  exact ⟨exec_eq_effect .tax s, exec_eq_effect .tay s, exec_eq_effect .txa s, exec_eq_effect .tya s,
    exec_eq_effect .tsx s, exec_eq_effect .txs s, exec_eq_effect .nop s⟩

end Sys2Proof.Proofs.LoadStoreFamily
end

section
/-! The stack and jump family (47_stack_jump.md): the pushing instructions as a list of pushes, the pulling ones by the bytes
that stand in their slots, and the jumps, each with exactly its rows of the opcode map. -/

namespace Sys2Proof.Proofs.StackJumpFamily

open Sys2Proof.Machine Sys2Proof.Safety Sys2Proof.Laws.Bus Sys2Proof.Laws.Exec Sys2Proof.Laws.Flags Sys2Proof.Laws.Decode
  Sys2Proof.Laws.Stack Sys2Proof.Proofs.AddressingFamily

/-! ## Pushes -/

/-- The pushes of some bytes, the first one first (47_stack_jump.md R1100). -/
def pushAll : List Byte → State → State
  | [], s => s
  | b :: bs, s => pushAll bs (push b s)

/-- Some pushes, and then a new PC and new flags, are what a claim calls the pushes of those bytes. -/
theorem pushed_pushAll {s : State} {bs : List Byte} (hw : Memory.wf s.mem = true) (hl : bs.length ≤ 256) (pc : Word)
    (f : Flags) : Pushed s (((pushAll bs s).setPc pc).setFlags f) bs := by
  induction bs generalizing s with
  | nil => exact pushed_nil s pc f
  | cons b bs ih =>
    rw [List.length_cons] at hl
    exact pushed_cons hw (by omega) (ih (wf_push hw b) (by omega))

/-- Some pushes leave every byte outside their slots alone, whether or not the memory is canonical (47_stack_jump.md
R1100). -/
theorem byteAt_pushAll {s : State} {bs : List Byte} {a : Word}
    (h : ∀ k, k < bs.length → ¬ SameByte s a (stackSlot (s.sp - BitVec.ofNat 8 k))) :
    byteAt (pushAll bs s) a = byteAt s a := by
  induction bs generalizing s with
  | nil => rfl
  | cons b bs ih =>
    have hfirst : ¬ SameByte s a (stackSlot s.sp) := by simpa using h 0 (by simp)
    have hrest : ∀ k, k < bs.length → ¬ SameByte (push b s) a (stackSlot ((push b s).sp - BitVec.ofNat 8 k)) := by
      intro k hk
      rw [SameByte, push_ramMirror, push_sp, sub_ofNat_succ]
      exact h (k + 1) (by simpa using hk)
    exact (ih hrest).trans (byteAt_push_other b hfirst)

/-- Some pushes lower S by their number and write no register, no flag and nothing of the PPU (47_stack_jump.md R1100). -/
theorem pushAll_frame (bs : List Byte) (s : State) :
    ∃ mem, pushAll bs s = { s with mem := mem, sp := s.sp - BitVec.ofNat 8 bs.length } := by
  induction bs generalizing s with
  | nil => exact ⟨s.mem, by simp [pushAll]⟩
  | cons b bs ih =>
    obtain ⟨mem, h⟩ := ih (push b s)
    refine ⟨mem, ?_⟩
    rw [pushAll, h, push_sp, sub_ofNat_succ, push_eq]
    rfl

/-- JSR pushes the two bytes of the address of its last byte and jumps (47_stack_jump.md R1107). -/
theorem effect_jsr (w : Word) (s : State) :
    effect .jsr (.abs w) s = (pushAll [highByte (s.pc - 1), lowByte (s.pc - 1)] s).setPc w := rfl

/-- Entering a handler through a vector is three pushes, and then PC from the vector and I set (60_exceptions.md R1607). -/
theorem enterHandler_eq_pushAll (ret : Word) (b : Bool) {vec : Word} (h : 0x4020 ≤ vec.toNat) (h' : vec.toNat < 0xFFFF)
    (s : State) :
    enterHandler ret b vec s =
      ((pushAll [highByte ret, lowByte ret, packP b s.flags] s).setPc (enterHandler ret b vec s).pc).setFlags
        { s.flags with i := true } := by
  rw [enterHandler_eq ret b h h']
  simp only [pushAll, push_eq]
  rfl

/-- A form that pushes is as many pushes as its rule lists, and then a new PC and new flags (47_stack_jump.md R1102, R1103,
R1107, R1110). -/
theorem effect_pushes {i : Instr} (h : pushes i.mnemonic = true) (s : State) :
    ∃ bs pc f, bs.length = pushCount i.mnemonic ∧
      effect i.mnemonic i.operand s = ((pushAll bs s).setPc pc).setFlags f := by
  cases i
  case pha => exact ⟨[s.a], _, _, rfl, rfl⟩
  case php => exact ⟨[packP true s.flags], _, _, rfl, rfl⟩
  case jsr w => exact ⟨[highByte (s.pc - 1), lowByte (s.pc - 1)], w, _, rfl, effect_jsr w s⟩
  case brk =>
    exact ⟨[highByte (s.pc + 1), lowByte (s.pc + 1), packP true s.flags], _, _, rfl,
      enterHandler_eq_pushAll _ _ (vec := irqVector) (by decide) (by decide) s⟩
  all_goals cases h

/-- Settles O39: a form that pushes is some pushes and a change of PC and flags, which moves no byte outside their slots. -/
theorem pushingFormsKeepOtherBytes : Obligations.PushingFormsKeepOtherBytes := by
  intro i s t hx hp
  rw [exec_eq_effect] at hx
  cases hx
  obtain ⟨bs, pc, f, hlen, e⟩ := effect_pushes hp s
  rw [e, ← hlen]
  refine ⟨fun a ha => byteAt_pushAll ha, ?_⟩
  obtain ⟨mem, hframe⟩ := pushAll_frame bs s
  rw [hframe]
  exact ⟨rfl, rfl, rfl⟩

/-- One push, as a claim states it, with PC and the flags kept (47_stack_jump.md R1100). -/
theorem push_result {s : State} (hw : Memory.wf s.mem = true) (v : Byte) :
    Pushed s (push v s) [v] ∧ (push v s).pc = s.pc ∧ (push v s).flags = s.flags :=
  ⟨pushed_pushAll hw (by simp) (push v s).pc (push v s).flags, push_pc v s, push_flags v s⟩

/-- Settles O27: the rows by the check of the opcode map, and each result by one push, of PHP's byte by the weight of its
bits. -/
theorem pushInstructionResults : Obligations.PushInstructionResults := by
  refine ⟨hasRows_of_check (by decide +kernel), hasRows_of_check (by decide +kernel), fun s hw => ?_⟩
  rw [← packP_eq_statusOf]
  exact ⟨⟨_, exec_eq_effect .pha s, push_result hw s.a⟩,
    ⟨_, exec_eq_effect .php s, push_result hw (packP true s.flags)⟩⟩

/-- Settles O31: the rows by the check of the opcode map, and the result by the entry through a vector. -/
theorem brkResult : Obligations.BrkResult :=
  ⟨hasRows_of_check (by decide +kernel), fun s hw =>
    ⟨_, exec_eq_effect .brk s, entersHandler hw (s.pc + 1) true (vec := irqVector) (by decide) (by decide)⟩⟩

/-! ## Pulls -/

/-- A pull gives the byte of the slot above S and has no effect but on S (47_stack_jump.md R1101). -/
theorem pull_of_byteAt {s : State} {v : Byte} (h : byteAt s (stackSlot (s.sp + 1)) = some v) :
    pull s = (v, s.setSp (s.sp + 1)) := by
  rw [byteAt_stackSlot, Option.some.injEq] at h
  rw [pull_eq, h]

/-- Settles O28: the rows by the check of the opcode map, and each result by the bytes in the three slots above S. -/
theorem pullInstructionResults : Obligations.PullInstructionResults := by
  refine ⟨hasRows_of_check (by decide +kernel), hasRows_of_check (by decide +kernel),
    hasRows_of_check (by decide +kernel), fun s => ?_⟩
  have h2 : s.sp + 1 + 1 = s.sp + 2 := BitVec.add_assoc ..
  have h3 : s.sp + 2 + 1 = s.sp + 3 := BitVec.add_assoc ..
  have hv := byteAt_stackSlot s (s.sp + 1)
  refine ⟨_, _, _, hv, byteAt_stackSlot s (s.sp + 2), byteAt_stackSlot s (s.sp + 3), ?_, ?_, ?_⟩ <;>
    rw [exec_eq_effect, Instr.mnemonic, effect]
  · rw [pull_of_byteAt hv, LogicalFamily.setANZ_eq]
    rfl
  · rw [pull_of_byteAt hv]
    rfl
  · rw [returnFromHandler_eq, h2, h3, joinBytes_eq_ofNat]
    rfl

/-! ## Jumps -/

/-- The two masks of a page-wrap pointer keep the high byte of one word and the low byte of another (40_addressing.md
R413). -/
theorem joinBytes_masked (a b c d : Byte) :
    (joinBytes a b &&& 0xFF00) ||| (joinBytes c d &&& 0x00FF) = joinBytes a d := by
  have hhigh : (0xFF00 : Word) = BitVec.allOnes 8 ++ 0#8 := rfl
  have hlow : (0x00FF : Word) = 0#8 ++ BitVec.allOnes 8 := rfl
  rw [hhigh, hlow, joinBytes, joinBytes, BitVec.and_append, BitVec.and_append, BitVec.or_append, BitVec.and_allOnes,
    BitVec.and_allOnes, BitVec.and_zero, BitVec.and_zero, BitVec.or_zero, BitVec.zero_or, joinBytes]

/-- The address of an indirect pointer's high byte stays in the pointer's page (40_addressing.md R413). -/
theorem pageWrap_succ (w : Word) :
    (w &&& 0xFF00) ||| ((w + 1) &&& 0x00FF) = BitVec.ofNat 16 (256 * (w.toNat / 256) + (w.toNat + 1) % 256) := by
  have hlow : (w + 1).toNat % 256 = (w.toNat + 1) % 256 := by
    rw [BitVec.toNat_add]
    exact Nat.mod_mod_of_dvd _ (by decide)
  calc (w &&& 0xFF00) ||| ((w + 1) &&& 0x00FF)
    _ = joinBytes (highByte w) (lowByte (w + 1)) := by
      rw [← joinBytes_masked _ (lowByte w) (highByte (w + 1)), joinBytes_high_low, joinBytes_high_low]
    _ = _ := by rw [joinBytes_eq_ofNat, highByte_toNat, lowByte_toNat, hlow]

/-- JMP indirect reads the two bytes of its pointer and sets PC to their word, in the state those reads leave
(47_stack_jump.md R1106). -/
theorem effect_jmp_ind {w : Word} {s t u : State} {lo hi : Byte} (hlo : memRead w s = (lo, t))
    (hhi : memRead ((w &&& 0xFF00) ||| ((w + 1) &&& 0x00FF)) t = (hi, u)) :
    effect .jmp (.ind w) s = u.setPc (joinBytes hi lo) := by
  simp only [effect, effJmp, resolve, pageWrapPointer, hlo, hhi, jumpTo]

/-- Settles O29: the rows by the check of the opcode map, and the indirect form by its two reads, the second in the pointer's
page. -/
theorem jumpResults : Obligations.JumpResults := by
  refine ⟨hasRows_of_check (by decide +kernel), fun w s => exec_eq_effect (.jmpAbs w) s, fun w s t u lo hi hlo hhi => ?_⟩
  rw [← pageWrap_succ] at hhi
  rw [← joinBytes_eq_ofNat]
  exact (exec_eq_effect (.jmpInd w) s).trans (congrArg _ (effect_jmp_ind hlo hhi))

/-! ## Subroutines -/

/-- RTS sets PC to one past the word in the two slots above S (47_stack_jump.md R1108). -/
theorem effRts_of_byteAt {s : State} {lo hi : Byte} (hlo : byteAt s (stackSlot (s.sp + 1)) = some lo)
    (hhi : byteAt s (stackSlot (s.sp + 2)) = some hi) :
    effRts s = { s with sp := s.sp + 2, pc := joinBytes hi lo + 1 } := by
  have h2 : s.sp + 1 + 1 = s.sp + 2 := BitVec.add_assoc ..
  have hhi' : byteAt (s.setSp (s.sp + 1)) (stackSlot ((s.setSp (s.sp + 1)).sp + 1)) = some hi := by
    rw [State.sp_setSp, h2]
    exact hhi
  rw [effRts, pull_of_byteAt hlo, pull_of_byteAt hhi', State.sp_setSp, h2]
  rfl

/-- RTS undoes JSR but for the pushed bytes, whatever PC it is fetched at: the two bytes of PC - 1 give PC back
(47_stack_jump.md R1107, R1108). -/
theorem effRts_of_pushed {s t : State} (h : Pushed s t [highByte (s.pc - 1), lowByte (s.pc - 1)])
    (hf : t.flags = s.flags) : effRts t = { s with mem := t.mem } := by
  obtain ⟨hslot, -, ht⟩ := h
  have hsp : t.sp = s.sp - 2 := congrArg State.sp ht
  have hsp1 : t.sp + 1 = s.sp - 1 := by rw [hsp]; bv_omega
  have hsp2 : t.sp + 2 = s.sp := by rw [hsp]; bv_omega
  have hlo : byteAt t (stackSlot (t.sp + 1)) = some (lowByte (s.pc - 1)) := hsp1 ▸ hslot 1 _ rfl
  have hhi : byteAt t (stackSlot (t.sp + 2)) = some (highByte (s.pc - 1)) := by
    rw [hsp2]
    simpa using hslot 0 _ rfl
  rw [effRts_of_byteAt hlo hhi, joinBytes_high_low, BitVec.sub_add_cancel, hsp2, ← hf]
  exact congrArg (fun u => (u.setSp s.sp).setPc s.pc) ht

/-- JSR as a claim states it: the two bytes of PC - 1 pushed, PC at the operand, the flags kept (47_stack_jump.md R1107). -/
theorem jsr_result {s : State} (hw : Memory.wf s.mem = true) (w : Word) :
    ∃ t, exec (.jsr w) s = .next t ∧ Pushed s t [highByte (s.pc - 1), lowByte (s.pc - 1)] ∧ t.pc = w ∧
      t.flags = s.flags := by
  have hx : exec (.jsr w) s = .next _ := (exec_eq_effect (.jsr w) s).trans (congrArg _ (effect_jsr w s))
  refine ⟨_, hx, pushed_pushAll hw (by simp) w (pushAll _ s).flags, rfl, ?_⟩
  rw [State.flags_setPc, pushAll, pushAll, pushAll, push_flags, push_flags]

/-- Settles O30: the rows by the check of the opcode map, JSR by its two pushes, RTS by the bytes in the two slots above S,
and the pair because those are the bytes that JSR pushed. -/
theorem subroutineResults : Obligations.SubroutineResults := by
  refine ⟨hasRows_of_check (by decide +kernel), hasRows_of_check (by decide +kernel), fun w s hw => ?_, fun s => ?_⟩
  · obtain ⟨t, hx, hp, hpc, hf⟩ := jsr_result hw w
    exact ⟨t, hx, hp, hpc, hf, (exec_eq_effect .rts t).trans (congrArg _ (effRts_of_pushed hp hf))⟩
  · have hlo := byteAt_stackSlot s (s.sp + 1)
    have hhi := byteAt_stackSlot s (s.sp + 2)
    refine ⟨_, _, hlo, hhi, ?_⟩
    rw [BitVec.ofNat_add, ← joinBytes_eq_ofNat]
    exact (exec_eq_effect .rts s).trans (congrArg _ (effRts_of_byteAt hlo hhi))

end Sys2Proof.Proofs.StackJumpFamily
end

section
/-! The port family (48_ppu_ports.md): what a read and a write of each PPU port do at every address of $2000-$3FFF, OAM DMA as
256 reads and stores, the hooks of the driver, and what power-on takes from a cartridge. -/

namespace Sys2Proof.Proofs.PortFamily

open Sys2Proof.Machine Sys2Proof.Safety Sys2Proof.Laws Sys2Proof.Laws.Bus Sys2Proof.Laws.Ports
  Sys2Proof.Proofs.AddressingFamily

/-! ## The eight ports -/

/-- A write-only port reads as a draw (48_ppu_ports.md R1212). -/
theorem portRead_writeOnly {r : Nat} (h : r ∈ [0, 1, 3, 5, 6]) (s : State) : portRead (portOf r) s = drawOpenBus s := by
  simp only [List.mem_cons, List.not_mem_nil, or_false] at h
  rcases h with rfl | rfl | rfl | rfl | rfl <;> rfl

/-- A PPUDATA read in closed form: the pointer as a sum modulo $4000 (48_ppu_ports.md R1210, R1211). -/
theorem readData_eq (s : State) :
    readData s = (s.ppu.readBuffer, { s with
      ppu := { s.ppu with
        readBuffer := vramRead s.ppu s.ppu.vramAddr.toNat
        vramAddr := BitVec.ofNat 14 (s.ppu.vramAddr.toNat + if s.ppu.ctrl.getLsbD 2 then 32 else 1) } }) := by
  rw [← vramAddr_add_inc]
  rfl

/-- A PPUDATA write in closed form: the pointer as a sum modulo $4000 (48_ppu_ports.md R1209, R1211). -/
theorem writeData_eq (v : Byte) (p : Ppu) :
    writeData v p = { vramWrite p p.vramAddr.toNat v with
      vramAddr := BitVec.ofNat 14 (p.vramAddr.toNat + if p.ctrl.getLsbD 2 then 32 else 1) } := by
  rw [← vramAddr_add_inc]
  rfl

/-- Settles O42: a read of $2000-$3FFF is that of the port its low three bits name, one clause for each kind of port. -/
theorem ppuPortReads : Obligations.PpuPortReads := by
  intro a s v t h h' hread
  rw [memRead_port h h'] at hread
  refine ⟨fun hr => ?_, fun hr => ?_, fun hr => ?_, fun hr => ?_⟩
  · rw [hr] at hread
    cases hread
    exact ⟨statusByte_high _ _ _ _, rfl⟩
  · rw [hr] at hread
    cases hread
    exact ⟨rfl, rfl⟩
  · have hdata : readData s = (v, t) := by rwa [hr] at hread
    rw [readData_eq] at hdata
    cases hdata
    exact ⟨rfl, rfl⟩
  · rw [portRead_writeOnly hr] at hread
    cases hread
    rfl

/-- Settles O43: a write of $2000-$3FFF is that of the port its low three bits name, one clause for each port. -/
theorem ppuPortWrites : Obligations.PpuPortWrites := by
  intro a s v h h'
  rw [memWrite_port h h']
  refine ⟨fun hr => ?_, fun hr => ?_, fun hr => ?_, fun hr => ?_, fun hr => ?_, fun hr => ?_, fun hr => ?_, fun hr => ?_⟩ <;>
    rw [hr]
  case refine_1 => exact writeCtrl_eq v s
  case refine_7 => exact congrArg s.setPpu (writeAddr_eq v s.ppu)
  case refine_8 => exact congrArg s.setPpu (writeData_eq v s.ppu)
  all_goals rfl

/-! ## Stores of many cells -/

section StoreAll

variable {α : Type} [DecidableEq α] {u : Nat → Option α} {f : Nat → α} {k : Nat} {v : α} {l m : List (Nat × α)}

/-- Stores values under their keys, one after another: what a cartridge's loading and a DMA do to their store. -/
def storeAll (u : Nat → Option α) (l m : List (Nat × α)) : List (Nat × α) := l.foldl (fun m c => putCell u c.1 c.2 m) m

theorem readCell_storeAll_other (h : ∀ c ∈ l, c.1 ≠ k) : readCell u f (storeAll u l m) k = readCell u f m k := by
  induction l generalizing m with
  | nil => rfl
  | cons c l ih =>
    rw [List.forall_mem_cons] at h
    exact (ih h.2).trans (Memory.readCell_put_other h.1.symm)

/-- Where the keys are distinct, each reads back the value stored under it. -/
theorem readCell_storeAll_of_mem (hm : canonicalCells u m = true) (hl : (l.map Prod.fst).Nodup) (h : (k, v) ∈ l) :
    readCell u f (storeAll u l m) k = v := by
  induction l generalizing m with
  | nil => simp at h
  | cons c l ih =>
    rw [List.map_cons, List.nodup_cons] at hl
    rcases List.mem_cons.1 h with rfl | h
    · have hother : ∀ c ∈ l, c.1 ≠ k := fun c hc hk => hl.1 (List.mem_map.2 ⟨c, hc, hk⟩)
      exact (readCell_storeAll_other hother).trans (Memory.readCell_put_self (Memory.canonical_rising hm))
    · exact ih (Memory.canonical_put hm) hl.2 h

end StoreAll

/-! ## OAM DMA -/

/-- The address of byte k of a CPU page (48_ppu_ports.md R1214). -/
theorem joinBytes_ofNat (page : Byte) {k : Nat} (h : k < 256) :
    joinBytes page (BitVec.ofNat 8 k) = BitVec.ofNat 16 (256 * page.toNat + k) := by
  rw [joinBytes_eq_ofNat, BitVec.toNat_ofNat, Nat.mod_eq_of_lt h]

/-- One byte of OAM DMA: a bus read, whose byte goes to OAM at an offset from oam_addr, which no read moves. -/
theorem dmaByte_eq (page : Byte) {k : Nat} (h : k < 256) (s : State) :
    dmaByte page (BitVec.ofNat 8 k) s =
      { (memRead (BitVec.ofNat 16 (256 * page.toNat + k)) s).2 with
        ppu := oamWrite (memRead (BitVec.ofNat 16 (256 * page.toNat + k)) s).2.ppu (s.ppu.oamAddr + BitVec.ofNat 8 k)
          (memRead (BitVec.ofNat 16 (256 * page.toNat + k)) s).1 } := by
  rw [dmaByte, joinBytes_ofNat page h, memRead_oamAddr]
  rfl

theorem dmaFrom_eq_foldl (page : Byte) (i n : Nat) (s : State) :
    dmaFrom page i n s = (List.range' i n).foldl (fun u k => dmaByte page (BitVec.ofNat 8 k) u) s := by
  induction n generalizing i s with
  | zero => rfl
  | succ n ih => exact ih (i + 1) _

/-- A write of $4014 is the 256 bytes of its page, in increasing order (48_ppu_ports.md R1214). -/
theorem memWrite_4014 (page : Byte) (s : State) :
    memWrite 0x4014 page s = (List.range 256).foldl (fun u k => dmaByte page (BitVec.ofNat 8 k) u) s := by
  rw [List.range_eq_range']
  exact dmaFrom_eq_foldl page 0 256 s

/-- The byte that stands at an offset of a CPU page, where one does. -/
def pageByte (s : State) (page : Byte) (k : Nat) : Byte := (byteAt s (BitVec.ofNat 16 (256 * page.toNat + k))).getD 0

/-- Every address of a page of RAM, or of cartridge space from page $41 on, holds a byte (20_memory.md R203). -/
theorem byteAt_page {page : Byte} (hp : page.toNat ≤ 0x1F ∨ 0x41 ≤ page.toNat) {k : Nat} (hk : k < 256) (s : State) :
    byteAt s (BitVec.ofNat 16 (256 * page.toNat + k)) = some (pageByte s page k) := by
  have hlt := page.isLt
  have ha : (BitVec.ofNat 16 (256 * page.toNat + k)).toNat = 256 * page.toNat + k := by
    rw [BitVec.toNat_ofNat]
    omega
  have hr : ∃ cell, busRegion s.ramMirror (BitVec.ofNat 16 (256 * page.toNat + k)) = .ram cell ∨
      busRegion s.ramMirror (BitVec.ofNat 16 (256 * page.toNat + k)) = .cart cell := by
    rcases hp with hp | hp
    · exact ⟨_, .inl (busRegion_ram (by omega))⟩
    · exact ⟨_, .inr (busRegion_cart (by omega))⟩
  obtain ⟨cell, hr | hr⟩ := hr <;> simp only [pageByte, byteAt, hr, Option.getD_some]

/-- The OAM cells that a DMA from oam_addr on stores in, with the bytes of the page. -/
def pageCells (s : State) (page : Byte) (l : List Nat) : List (Nat × Byte) :=
  l.map fun k => ((s.ppu.oamAddr + BitVec.ofNat 8 k).toNat, pageByte s page k)

/-- Some bytes of a page that holds bytes, copied from a state with any OAM: nothing but OAM changes. -/
theorem foldl_dmaByte {s : State} {page : Byte} (hp : page.toNat ≤ 0x1F ∨ 0x41 ≤ page.toNat) {l : List Nat}
    (hl : ∀ k ∈ l, k < 256) (m : List Host.Cell) :
    l.foldl (fun u k => dmaByte page (BitVec.ofNat 8 k) u) (s.setPpu { s.ppu with oam := m }) =
      s.setPpu { s.ppu with oam := storeAll noUnlisted (pageCells s page l) m } := by
  induction l generalizing m with
  | nil => rfl
  | cons k l ih =>
    rw [List.forall_mem_cons] at hl
    have hread : memRead (BitVec.ofNat 16 (256 * page.toNat + k)) (s.setPpu { s.ppu with oam := m }) =
        (pageByte s page k, s.setPpu { s.ppu with oam := m }) := memRead_of_byteAt (byteAt_page hp hl.1 s)
    rw [List.foldl_cons, dmaByte_eq page hl.1, hread]
    exact ih hl.2 _

/-- The 256 cells of a DMA are distinct: oam_addr + i runs once through OAM (48_ppu_ports.md R1214). -/
theorem nodup_pageCells (s : State) (page : Byte) : ((pageCells s page (List.range 256)).map Prod.fst).Nodup := by
  rw [pageCells, List.map_map]
  refine List.Nodup.map_on (fun i hi j hj h => ?_) List.nodup_range
  rw [List.mem_range] at hi hj
  have h8 : BitVec.ofNat 8 i = BitVec.ofNat 8 j := (BitVec.add_right_inj _).1 (BitVec.eq_of_toNat_eq h)
  simpa [Nat.mod_eq_of_lt hi, Nat.mod_eq_of_lt hj] using congrArg BitVec.toNat h8

/-- A byte of DMA reads and stores in OAM, and neither moves oam_addr. -/
theorem dmaByte_oamAddr (page i : Byte) (s : State) : (dmaByte page i s).ppu.oamAddr = s.ppu.oamAddr :=
  memRead_oamAddr (joinBytes page i) s

theorem memWrite_4014_oamAddr (page : Byte) (s : State) : (memWrite 0x4014 page s).ppu.oamAddr = s.ppu.oamAddr := by
  rw [memWrite_4014]
  generalize List.range 256 = l
  exact Render.fold_keeps (f := fun u k => dmaByte page (BitVec.ofNat 8 k) u)
    (P := fun u => u.ppu.oamAddr = s.ppu.oamAddr) (fun u k hu => (dmaByte_oamAddr page _ u).trans hu) s rfl

/-- A DMA from a page that holds bytes stores them in OAM and changes nothing else (48_ppu_ports.md R1214). -/
theorem memWrite_4014_of_page {page : Byte} (hp : page.toNat ≤ 0x1F ∨ 0x41 ≤ page.toNat) (s : State) :
    memWrite 0x4014 page s = s.setPpu { s.ppu with
      oam := storeAll noUnlisted (pageCells s page (List.range 256)) s.ppu.oam } :=
  (memWrite_4014 page s).trans (foldl_dmaByte hp (fun _ => List.mem_range.1) s.ppu.oam)

/-- After those stores OAM holds byte k of the page at oam_addr + k (48_ppu_ports.md R1214). -/
theorem oamGet_pageCells {s : State} (hwf : oamWf s.ppu = true) (page k : Byte) :
    oamGet (storeAll noUnlisted (pageCells s page (List.range 256)) s.ppu.oam) (s.ppu.oamAddr + k).toNat =
      pageByte s page k.toNat := by
  have hmem : ((s.ppu.oamAddr + k).toNat, pageByte s page k.toNat) ∈ pageCells s page (List.range 256) :=
    List.mem_map.2 ⟨k.toNat, List.mem_range.2 k.isLt, by rw [BitVec.ofNat_toNat, BitVec.setWidth_eq]⟩
  rw [oamWf, Bool.and_eq_true] at hwf
  exact readCell_storeAll_of_mem hwf.1 (nodup_pageCells s page) hmem

/-- Settles O44: the DMA is a fold of its byte steps, and over a page that holds bytes that fold stores 256 distinct cells. -/
theorem oamDmaCopiesAPage : Obligations.OamDmaCopiesAPage := by
  intro v s
  refine ⟨?_, memWrite_4014_oamAddr v s, fun hwf hp => ?_⟩
  · rw [memWrite_4014]
    exact List.foldl_ext _ _ s fun u k hk => dmaByte_eq v (List.mem_range.1 hk) u
  · have hget := oamGet_pageCells hwf v
    rw [memWrite_4014_of_page hp]
    generalize storeAll noUnlisted (pageCells s v (List.range 256)) s.ppu.oam = m at hget ⊢
    exact ⟨rfl, fun k => (byteAt_page hp k.isLt s).trans (congrArg some (hget k).symm)⟩

/-! ## The driver's hooks -/

/-- BeginVBlank in closed form (48_ppu_ports.md R1215). -/
theorem beginVBlank_eq (s : State) :
    beginVBlank s =
      { s with ppu := { s.ppu with vblank := true }, nmiPending := s.nmiPending || s.ppu.ctrl.getLsbD 7 } := by
  rw [beginVBlank, ctrlNmi]
  cases s.ppu.ctrl.getLsbD 7
  · rw [Bool.or_false]
    rfl
  · rw [Bool.or_true]
    rfl

/-- Settles O52: BeginVBlank by its closed form, and each other hook is the write of its fields. -/
theorem driverHookEffects : Obligations.DriverHookEffects :=
  fun s _ _ => ⟨beginVBlank_eq s, rfl, rfl, rfl, rfl, rfl, rfl⟩

/-! ## The cartridge at power-on -/

/-- The cells of CPU memory that a cartridge populates (48_ppu_ports.md R1217). -/
def prgCells (prg : List (Word × Byte)) : List (Nat × Byte) :=
  (prg.filter fun c => decide (0x4020 ≤ c.1.toNat)).map fun c => (c.1.toNat, c.2)

/-- The cells of the pattern region that a cartridge populates (48_ppu_ports.md R1217). -/
def chrCells (chr : List (BitVec 14 × Byte)) : List (Nat × Byte) :=
  (chr.filter fun c => decide (c.1.toNat ≤ 0x1FFF)).map fun c => (c.1.toNat, c.2)

theorem loadPrg_eq (prg : List (Word × Byte)) : loadPrg prg = storeAll memUnlisted (prgCells prg) [] := by
  simp only [loadPrg, storeAll, prgCells, List.foldl_map, List.foldl_filter, decide_eq_true_eq]
  rfl

theorem loadChr_eq (chr : List (BitVec 14 × Byte)) : loadChr chr = storeAll vramUnlisted (chrCells chr) [] := by
  simp only [loadChr, storeAll, chrCells, List.foldl_map, List.foldl_filter, decide_eq_true_eq]
  rfl

/-- Distinct addresses select distinct cells, also where only some of them are kept. -/
theorem nodup_cells {w : Nat} {l : List (BitVec w × Byte)} (h : (l.map Prod.fst).Nodup) (p : BitVec w × Byte → Bool) :
    (((l.filter p).map fun c => (c.1.toNat, c.2)).map Prod.fst).Nodup := by
  have hsub : ((l.filter p).map Prod.fst).Nodup := h.sublist (List.filter_sublist.map _)
  have hkeys := hsub.map (f := BitVec.toNat) fun _ _ => BitVec.eq_of_toNat_eq
  rwa [List.map_map] at hkeys ⊢

/-- A byte of cartridge space that the cartridge lists stands in its cell. -/
theorem memGet_loadPrg {prg : List (Word × Byte)} (hn : (prg.map Prod.fst).Nodup) {a : Word} {v : Byte}
    (h : (a, v) ∈ prg) (ha : 0x4020 ≤ a.toNat) : memGet (loadPrg prg) a.toNat = v := by
  rw [loadPrg_eq]
  exact readCell_storeAll_of_mem rfl (nodup_cells hn _)
    (List.mem_map.2 ⟨(a, v), List.mem_filter.2 ⟨h, decide_eq_true ha⟩, rfl⟩)

/-- A byte of the pattern region that the cartridge lists stands in its cell. -/
theorem vramGet_loadChr {chr : List (BitVec 14 × Byte)} (hn : (chr.map Prod.fst).Nodup) {a : BitVec 14} {v : Byte}
    (h : (a, v) ∈ chr) (ha : a.toNat ≤ 0x1FFF) : vramGet (loadChr chr) a.toNat = v := by
  rw [loadChr_eq]
  exact readCell_storeAll_of_mem rfl (nodup_cells hn _)
    (List.mem_map.2 ⟨(a, v), List.mem_filter.2 ⟨h, decide_eq_true ha⟩, rfl⟩)

/-- No cell of RAM is among those a cartridge populates, so each still reads as its free value. -/
theorem memGet_loadPrg_ram (prg : List (Word × Byte)) {k : Nat} (h : k ≤ 0x1FFF) :
    memGet (loadPrg prg) k = Config.initRam k := by
  have hother : ∀ c ∈ prgCells prg, c.1 ≠ k := by
    intro c hc
    obtain ⟨d, hd, rfl⟩ := List.mem_map.1 hc
    have := of_decide_eq_true (List.mem_filter.1 hd).2
    dsimp only
    omega
  calc memGet (loadPrg prg) k
    _ = memGet [] k := by rw [loadPrg_eq]; exact readCell_storeAll_other hother
    _ = Config.initRam k := by simp only [memGet, readCell, getCell, memUnlisted, if_pos h]

/-- Power-on in closed form: the created state with the cartridge's bytes, and the reset sequence's S, I and PC
(70_reset_and_hazards.md R1700). -/
theorem powerOn_eq (rm cw : Bool) (c : Cartridge) :
    powerOn rm cw c =
      { State.reset with
        ramMirror := rm, cartWritable := cw, mem := loadPrg c.prg
        ppu := { Ppu.reset with vram := loadChr c.chr, mirroring := c.mirroring }
        pc := joinBytes (memGet (loadPrg c.prg) 0xFFFD) (memGet (loadPrg c.prg) 0xFFFC) } := by
  rw [powerOn, resetSequence, memRead16_cart (a := resetVector) (by decide) (by decide)]
  rfl

/-- Settles O54: the loading of each region is a store of the cells it keeps, read back where they are distinct. -/
theorem cartridgePopulatesMemory : Obligations.CartridgePopulatesMemory := by
  rintro rm cw c _ rfl
  rw [powerOn_eq]
  refine ⟨fun hn a v h ha => ?_, fun hn a v h ha => ?_, fun k => memGet_loadPrg_ram c.prg⟩
  · rw [byteAt, busRegion_cart ha]
    exact congrArg some (memGet_loadPrg hn h ha)
  · rw [vramRead, MemoryFamily.canon_pattern _ ha]
    exact vramGet_loadChr hn h ha

end Sys2Proof.Proofs.PortFamily
end

section
/-! The compositor family (49_ppu_compositors.md): both compositors as folds of plotted pixels, the pixel each leaves at every
place, the reflections of a sprite, and that nothing else writes the frame buffer. -/

namespace Sys2Proof.Proofs.CompositorFamily

open Sys2Proof.Machine Sys2Proof.Safety Sys2Proof.Laws Sys2Proof.Laws.Bus Sys2Proof.Laws.Closed Sys2Proof.Laws.Render

/-! ## The background -/

/-- Where a tile's row and column land, and what is plotted there (49_ppu_compositors.md R1306, R1307). -/
def bgPlot (p : Ppu) (tx ty sx sy ms : Byte) (rc : Nat × Nat) : Option (Int × Int × Pixel) :=
  some (8 * (tx.toNat : Int) + (rc.2 : Int) - ((sx.toNat % 8 : Nat) : Int),
    8 * (ty.toNat : Int) + (rc.1 : Int) - ((sy.toNat % 8 : Nat) : Int), bgPixel p (tilePlace tx ty sx sy ms) rc.1 rc.2)

/-- The pixel of a row and a column of the tile, where it lies in the frame buffer (49_ppu_compositors.md R1307). -/
theorem fbAt_renderBgTile {p : Ppu} (hwf : fbWf p = true) (tx ty sx sy ms : Byte) {r c x y : Nat} (hr : r < 8)
    (hc : c < 8) (hx : (x : Int) = 8 * tx.toNat + c - (sx.toNat % 8 : Nat))
    (hy : (y : Int) = 8 * ty.toNat + r - (sy.toNat % 8 : Nat)) (hx' : x ≤ 255) (hy' : y ≤ 255) :
    fbAt (renderBgTile tx ty sx sy ms p) x y = bgPixel p (tilePlace tx ty sx sy ms) r c := by
  refine (fbAt_foldl (bgPlot p tx ty sx sy ms) tilePixels x y hx' hy' _ (fun _ _ => rfl)).2 p hwf tile_nodup (r, c)
    ((mem_tile r c).2 ⟨hr, hc⟩) _ (by rw [bgPlot, hx, hy]) ?_
  rintro ⟨r', c'⟩ - hne _ _ _ hplot
  rw [bgPlot] at hplot
  cases hplot
  have : r' ≠ r ∨ c' ≠ c := by
    by_contra h
    exact hne (by simp_all)
  dsimp only
  omega

/-- A pixel that no row and column of the tile reaches is kept (49_ppu_compositors.md R1307). -/
theorem fbAt_renderBgTile_other (p : Ppu) (tx ty sx sy ms : Byte) {x y : Nat} (hx : x ≤ 255) (hy : y ≤ 255)
    (h : ¬ ∃ r c : Nat, r < 8 ∧ c < 8 ∧ (x : Int) = 8 * tx.toNat + c - (sx.toNat % 8 : Nat) ∧
      (y : Int) = 8 * ty.toNat + r - (sy.toNat % 8 : Nat)) :
    fbAt (renderBgTile tx ty sx sy ms p) x y = fbAt p x y := by
  refine (fbAt_foldl (bgPlot p tx ty sx sy ms) tilePixels x y hx hy _ (fun _ _ => rfl)).1 p ?_
  rintro ⟨r, c⟩ hmem _ _ _ hplot
  obtain ⟨hr, hc⟩ := (mem_tile r c).1 hmem
  rw [bgPlot] at hplot
  cases hplot
  by_contra hxy
  rw [not_or, not_not, not_not] at hxy
  exact h ⟨r, c, hr, hc, hxy⟩

/-- Settles O48: each pixel is plotted by its own row and column, and its colour index is the pattern bits by division. -/
theorem backgroundTilePixels : Obligations.BackgroundTilePixels := by
  refine ⟨fun p pi c _ => paletteColor_eq p pi, fun p tx ty sx sy ms hwf _ => ?_⟩
  rintro _ _ _ _ _ _ _ _ _ _ rfl rfl rfl rfl rfl rfl rfl rfl rfl rfl
  refine ⟨?_, fun x y hx hy => fbAt_renderBgTile_other p tx ty sx sy ms hx hy⟩
  rintro r c x y _ _ hr hc hx hy hx' hy' rfl rfl
  rw [fbAt_renderBgTile hwf tx ty sx sy ms hr hc hx hy hx' hy', bgPixel, patPixel_eq]
  rfl

/-! ## Sprites -/

/-- Where a sprite's row and column land, and what is plotted there, if anything (49_ppu_compositors.md R1312, R1313). -/
def spritePlot (p : Ppu) (x y tile a : Byte) (rc : Nat × Nat) : Option (Int × Int × Pixel) :=
  (spritePixel p tile a rc.1 rc.2).map fun px => ((x.toNat : Int) + (rc.2 : Int), (y.toNat : Int) + (rc.1 : Int), px)

/-- Each step of the sprite compositor's fold makes one of those plots, or none. -/
theorem spritePlot_step (p : Ppu) (x y tile a : Byte) (q : Ppu) (rc : Nat × Nat) :
    (match spritePixel p tile a rc.1 rc.2 with
      | none => q
      | some px => plot ((x.toNat : Int) + (rc.2 : Int)) ((y.toNat : Int) + (rc.1 : Int)) px q) =
    match spritePlot p x y tile a rc with
      | none => q
      | some (u, v, px) => plot u v px q := by
  rw [spritePlot]
  cases spritePixel p tile a rc.1 rc.2 <;> rfl

theorem spritePlot_eq_some {p : Ppu} {x y tile a : Byte} {rc : Nat × Nat} {u v : Int} {px : Pixel}
    (h : spritePlot p x y tile a rc = some (u, v, px)) :
    spritePixel p tile a rc.1 rc.2 = some px ∧ u = x.toNat + rc.2 ∧ v = y.toNat + rc.1 := by
  rw [spritePlot, Option.map_eq_some_iff] at h
  obtain ⟨_, hpx, h⟩ := h
  cases h
  exact ⟨hpx, rfl, rfl⟩

/-- A pixel that no opaque row and column of the sprite reaches is kept (49_ppu_compositors.md R1312, R1313). -/
theorem fbAt_renderSprite_other (p : Ppu) (x y tile a : Byte) {x' y' : Nat} (hx : x' ≤ 255) (hy : y' ≤ 255)
    (h : ∀ r c, r < 8 → c < 8 → x' = x.toNat + c → y' = y.toNat + r → spritePixel p tile a r c = none) :
    fbAt (renderSprite x y tile a p) x' y' = fbAt p x' y' := by
  refine (fbAt_foldl (spritePlot p x y tile a) tilePixels x' y' hx hy _ (spritePlot_step p x y tile a)).1 p ?_
  rintro ⟨r, c⟩ hmem _ _ _ hplot
  obtain ⟨hr, hc⟩ := (mem_tile r c).1 hmem
  obtain ⟨hpx, rfl, rfl⟩ := spritePlot_eq_some hplot
  by_contra hxy
  have hnone := h r c hr hc (by omega) (by omega)
  simp [hnone] at hpx

/-- The pixel of a row and a column of the sprite, where it lies in the frame buffer: the sprite's own, or what stood there
where the sprite is transparent (49_ppu_compositors.md R1312, R1313). -/
theorem fbAt_renderSprite {p : Ppu} (hwf : fbWf p = true) (x y tile a : Byte) {r c : Nat} (hr : r < 8) (hc : c < 8)
    (hx : x.toNat + c ≤ 255) (hy : y.toNat + r ≤ 255) :
    fbAt (renderSprite x y tile a p) (x.toNat + c) (y.toNat + r) =
      (spritePixel p tile a r c).getD (fbAt p (x.toNat + c) (y.toNat + r)) := by
  cases hpx : spritePixel p tile a r c with
  | none =>
    refine fbAt_renderSprite_other p x y tile a hx hy fun r' c' _ _ hc' hr' => ?_
    obtain ⟨rfl, rfl⟩ : r' = r ∧ c' = c := by omega
    exact hpx
  | some px =>
    refine (fbAt_foldl (spritePlot p x y tile a) tilePixels _ _ hx hy _ (spritePlot_step p x y tile a)).2 p hwf
      tile_nodup (r, c) ((mem_tile r c).2 ⟨hr, hc⟩) px (by simp [spritePlot, hpx]) ?_
    rintro ⟨r', c'⟩ - hne _ _ _ hplot
    obtain ⟨-, rfl, rfl⟩ := spritePlot_eq_some hplot
    have : r' ≠ r ∨ c' ≠ c := by
      by_contra h
      exact hne (by simp_all)
    omega

/-- The sprite's pixel as arithmetic on the pattern bytes, with the colour as its triple (49_ppu_compositors.md R1310 to
R1312). -/
theorem spritePixel_eq (p : Ppu) (tile a : Byte) {r c sr sc ci : Nat} {col : Rgb}
    (hsr : sr = if a.getLsbD 7 then 7 - r else r) (hsc : sc = if a.getLsbD 6 then 7 - c else c)
    (hci : ci = (vramRead p ((if p.ctrl.getLsbD 3 then 0x1000 else 0) + 16 * tile.toNat + sr)).toNat / 2 ^ (7 - sc) % 2 +
      2 * ((vramRead p ((if p.ctrl.getLsbD 3 then 0x1000 else 0) + 16 * tile.toNat + 8 + sr)).toNat / 2 ^ (7 - sc) % 2))
    (hcol : col = Config.systemPalette (BitVec.ofNat 6 ((vramRead p (0x3F10 + 4 * (a.toNat % 4) + ci)).toNat % 64))) :
    spritePixel p tile a r c = if ci = 0 then none else some { r := col.r, g := col.g, b := col.b, a := 0xFF } := by
  have hindex : spriteIndex p tile a r c = ci := by
    rw [spriteIndex, patPixel_eq, hci, hsr, hsc]
    rfl
  have haddr : 0x3F10 + 4 * (a.toNat % 4) + ci = 0x3F00 + (0x10 + 4 * (a.toNat % 4) + ci) := by omega
  rw [haddr] at hcol
  rw [spritePixel, hindex, spriteSelector, paletteColor_eq p _ hcol]

/-- Settles O49: each pixel is plotted by its own row and column, or left where that one is transparent. -/
theorem spritePixels : Obligations.SpritePixels := by
  intro p x y tile a hwf
  refine ⟨fun r c sr sc ci col hr hc hx hy hsr hsc hci hcol => ?_, fun x' y' hx hy h => ?_⟩
  · rw [fbAt_renderSprite hwf x y tile a hr hc hx hy, spritePixel_eq p tile a hsr hsc hci hcol]
    split <;> rfl
  · exact fbAt_renderSprite_other p x y tile a hx hy fun r c hr hc hx' hy' => absurd ⟨r, c, hr, hc, hx', hy'⟩ h

/-! ## Reflections -/

/-- A sprite's pixel depends on its flags, row and column by the palette selector and the colour index only. -/
theorem spritePixel_congr {p : Ppu} {tile a a' : Byte} {r c r' c' : Nat} (hsel : spriteSelector a' = spriteSelector a)
    (hindex : spriteIndex p tile a' r' c' = spriteIndex p tile a r c) :
    spritePixel p tile a' r' c' = spritePixel p tile a r c := by
  rw [spritePixel, spritePixel, hsel, hindex]

/-- Setting the horizontal flip bit shows each column at the place of its mirror image (49_ppu_compositors.md R1311). -/
theorem spritePixel_hflip (p : Ppu) (tile : Byte) {a : Byte} (ha : spriteHFlip a = false) (r : Nat) {c : Nat}
    (hc : c < 8) : spritePixel p tile (a ||| 0x40) r (7 - c) = spritePixel p tile a r c := by
  have hsel : ∀ a : Byte, spriteSelector (a ||| 0x40) = spriteSelector a := by decide +kernel
  have hv : spriteVFlip (a ||| 0x40) = spriteVFlip a := by simp [spriteVFlip]
  have hh : spriteHFlip (a ||| 0x40) = true := by simp [spriteHFlip]
  have hcol : 7 - (7 - c) = c := by omega
  refine spritePixel_congr (hsel a) ?_
  rw [spriteIndex, spriteIndex, hv, hh, ha, hcol]
  rfl

/-- Setting the vertical flip bit shows each row at the place of its mirror image (49_ppu_compositors.md R1311). -/
theorem spritePixel_vflip (p : Ppu) (tile : Byte) {a : Byte} (ha : spriteVFlip a = false) {r : Nat} (hr : r < 8)
    (c : Nat) : spritePixel p tile (a ||| 0x80) (7 - r) c = spritePixel p tile a r c := by
  have hsel : ∀ a : Byte, spriteSelector (a ||| 0x80) = spriteSelector a := by decide +kernel
  have hh : spriteHFlip (a ||| 0x80) = spriteHFlip a := by simp [spriteHFlip]
  have hv : spriteVFlip (a ||| 0x80) = true := by simp [spriteVFlip]
  have hrow : 7 - (7 - r) = r := by omega
  refine spritePixel_congr (hsel a) ?_
  rw [spriteIndex, spriteIndex, hh, hv, ha, hrow]
  rfl

/-- Settles O50: the pixel or skip is the unflipped sprite's own, which does not depend on the frame buffer. -/
theorem flippedSpritesAreReflections : Obligations.FlippedSpritesAreReflections := by
  intro p x y tile a hx hy r c hr hc
  have hown : ∀ (a : Byte) (r c : Nat) fb, r < 8 → c < 8 → fbWf { p with fb := fb } = true →
      fbAt (renderSprite x y tile a { p with fb := fb }) (x.toNat + c) (y.toNat + r) =
        (spritePixel p tile a r c).getD (fbAt { p with fb := fb } (x.toNat + c) (y.toNat + r)) :=
    fun a r c fb hr hc hwf => fbAt_renderSprite hwf x y tile a hr hc (by omega) (by omega)
  refine ⟨fun ha => ⟨spritePixel p tile a r c, fun fb hwf => ⟨hown a r c fb hr hc hwf, ?_⟩⟩,
    fun ha => ⟨spritePixel p tile a r c, fun fb hwf => ⟨hown a r c fb hr hc hwf, ?_⟩⟩⟩
  · rw [Nat.add_sub_assoc (by omega), hown _ r (7 - c) fb hr (by omega) hwf, spritePixel_hflip p tile ha r hc]
  · rw [Nat.add_sub_assoc (by omega), hown _ (7 - r) c fb (by omega) hc hwf, spritePixel_vflip p tile ha hr c]

/-! ## Nothing else writes the frame buffer -/

/-- Bus accesses and changes of registers keep the frame buffer (49_ppu_compositors.md R1316). -/
theorem fb_busClosed : BusClosed fun s t => t.ppu.fb = s.ppu.fb :=
  ⟨fun h h' => h'.trans h, fun _ _ _ _ _ _ _ => rfl, memRead_fb, memWrite_fb⟩

/-- A step is bus accesses, changes of registers and flags, and writes of the NMI latch and of the fault record
(60_exceptions.md R1601, R1608). -/
theorem leaves_of_busClosed {R : State → State → Prop} (h : BusClosed R) (hnmi : ∀ b s, R s (s.setNmi b))
    (hfault : ∀ f s, R s (s.setFault f)) (s : State) : R s (leaves s) := by
  rcases leaves_cases s with ⟨_, _, hl, _⟩ | ⟨_, _, hl, _⟩ | ⟨_, _, _, _, hl, _⟩ | ⟨_, op, t, hf, hl, _⟩ |
    ⟨_, i, t, hf, hl, _⟩ <;> rw [hl]
  · exact h.refl s
  · exact h.trans (hnmi false s) (h.enterHandler _ _ _ _)
  · exact h.enterHandler _ _ _ s
  · exact h.trans ((h.fetchInstr s).1 op t hf) (h.trans (h.setPc _ _) (hfault _ _))
  · exact h.trans ((h.fetchInstr s).2 i t hf) (h.effect _ _ _)

/-- A plot of a state that differs from p in its frame buffer at most is again one. -/
theorem plot_onlyFb {p q : Ppu} (x y : Int) (px : Pixel) (h : ∃ fb, q = { p with fb := fb }) :
    ∃ fb, plot x y px q = { p with fb := fb } := by
  obtain ⟨fb, rfl⟩ := h
  exact Vram.plot_frame x y px { p with fb := fb }

theorem renderBgTile_onlyFb (tx ty sx sy ms : Byte) (p : Ppu) :
    ∃ fb, renderBgTile tx ty sx sy ms p = { p with fb := fb } := by
  refine fold_keeps (P := fun q => ∃ fb, q = { p with fb := fb }) (fun q rc hq => ?_) p ⟨p.fb, rfl⟩
  exact plot_onlyFb _ _ _ hq

theorem renderSprite_onlyFb (x y tile a : Byte) (p : Ppu) : ∃ fb, renderSprite x y tile a p = { p with fb := fb } := by
  refine fold_keeps (P := fun q => ∃ fb, q = { p with fb := fb }) (fun q rc hq => ?_) p ⟨p.fb, rfl⟩
  cases spritePixel p tile a rc.1 rc.2 with
  | none => exact hq
  | some px => exact plot_onlyFb _ _ _ hq

/-- Settles O51: the actions one by one, the compositors as folds of plots. -/
theorem onlyCompositorsWriteTheFrameBuffer : Obligations.OnlyCompositorsWriteTheFrameBuffer := by
  intro act' s
  refine ⟨fun hbg hsprite => ?_, fun tx ty sx sy ms => ?_, fun x y tile a => ?_⟩
  · cases act' with
    | cpu => exact leaves_of_busClosed fb_busClosed (fun _ _ => rfl) (fun _ _ => rfl) s
    | driver d =>
      cases d with
      | renderBgTile tx ty sx sy ms => exact absurd rfl (hbg tx ty sx sy ms)
      | renderSprite x y tile a => exact absurd rfl (hsprite x y tile a)
      | beginVBlank => exact congrArg (fun t => t.ppu.fb) (PortFamily.beginVBlank_eq s)
      | endVBlank | setSprite0Hit | setSpriteOverflow | setScanline | raiseNmi | setIrq => rfl
  · obtain ⟨fb, h⟩ := renderBgTile_onlyFb tx ty sx sy ms s.ppu
    exact ⟨fb, congrArg s.setPpu h⟩
  · obtain ⟨fb, h⟩ := renderSprite_onlyFb x y tile a s.ppu
    exact ⟨fb, congrArg s.setPpu h⟩

end Sys2Proof.Proofs.CompositorFamily
end

section
/-! The exception family (60_exceptions.md): the order of the poll, the entries and the return, the one fault and its
stickiness, the completion of every instruction, and where a request of the NMI comes from. -/

namespace Sys2Proof.Proofs.ExceptionFamily

open Sys2Proof.Machine Sys2Proof.Safety Sys2Proof.Laws Sys2Proof.Laws.Bus Sys2Proof.Laws.Exec Sys2Proof.Laws.Frames
  Sys2Proof.Laws.Closed Sys2Proof.Laws.Stack Sys2Proof.Proofs.FlagFamily

/-! ## The poll and the fetch of an undefined opcode -/

/-- A fetch that finds no instruction has read one byte, an undefined one (40_addressing.md R403). -/
theorem fetchInstr_undefined {s t : State} {op : Byte} (h : fetchInstr s = .undefined op t) :
    op = (memRead s.pc s).1 ∧ op ∈ undefinedBytes ∧ t = (memRead s.pc s).2.setPc (s.pc + 1) := by
  simp only [fetchInstr, fetch8_eq s] at h
  split at h
  case h_1 hf =>
    cases h
    exact ⟨rfl, (Decode.opForm_eq_none _).1 hf, rfl⟩
  all_goals cases h

/-- Where the byte at PC is undefined, the fetch ends with it (60_exceptions.md R1601). -/
theorem fetchInstr_of_undefined {s : State} (h : (memRead s.pc s).1 ∈ undefinedBytes) :
    fetchInstr s = .undefined (memRead s.pc s).1 ((memRead s.pc s).2.setPc (s.pc + 1)) := by
  simp only [fetchInstr, fetch8_eq s, (Decode.opForm_eq_none _).2 h]

/-- Settles O8: the two interrupts by their polls, and the fetch by what it finds. -/
theorem pollOrder : Obligations.PollOrder := by
  intro s hf
  refine ⟨step_of_nmiPending hf, step_of_unmaskedIrq hf, fun hn hq => ?_⟩
  have hs : Fetches s := ⟨hf, hn, hq⟩
  cases he : fetchInstr s with
  | instr i t =>
    obtain ⟨hop, hpc, hread⟩ := fetchInstr_instr he
    exact .inl ⟨i, t, rfl, hop, hpc, hread, AddressingFamily.step_of_fetchInstr hs he⟩
  | undefined op t =>
    obtain ⟨rfl, hop, -⟩ := fetchInstr_undefined he
    exact .inr ⟨hop, by rw [step_of_fetches hs, he]⟩

/-! ## The one fault -/

/-- The step that fetches an undefined opcode leaves the state after its one read, with the fault recorded: PC is back at
the opcode, where the read left it (60_exceptions.md R1601). -/
theorem leaves_of_undefined {s : State} (hs : Fetches s) (h : (memRead s.pc s).1 ∈ undefinedBytes) :
    step s = .fault (.undefinedOpcode (memRead s.pc s).1 s.pc) ∧
      leaves s = (memRead s.pc s).2.setFault (some (.undefinedOpcode (memRead s.pc s).1 s.pc)) := by
  have he := fetchInstr_of_undefined h
  have hpc := State.setPc_self (memRead s.pc s).2
  rw [memRead_pc] at hpc
  obtain ⟨hf, hn, hi⟩ := hs
  have hq : (s.irqLine && !s.flags.i) = false := by rcases hi with h | h <;> simp [h]
  constructor
  · simp [step, stepEvent, hf, hn, hq, he]
  · simp [leaves, stepEvent, hf, hn, hq, he, haltUndefined, hpc]

/-- Settles O10: the fetch ends with the byte, and the step leaves what that one read left, with the fault recorded. -/
theorem undefinedOpcodeFaults : Obligations.UndefinedOpcodeFaults := by
  intro s hs h
  obtain ⟨hstep, hleaves⟩ := leaves_of_undefined hs h
  exact ⟨hstep, hleaves, by rw [hleaves, State.pc_setFault, memRead_pc], readEffect_memRead s.pc s⟩

theorem step_of_fault {s : State} {f : Fault} (h : s.fault = some f) : step s = .fault f := by
  simp only [step, stepEvent, h]

theorem leaves_of_fault {s : State} {f : Fault} (h : s.fault = some f) : leaves s = s := by
  simp only [leaves, stepEvent, h]

/-- No operation of the driver writes the fault record (60_exceptions.md R1602). -/
theorem driverStep_fault (d : DriverOp) (s : State) : (driverStep d s).fault = s.fault := by
  cases d with
  | beginVBlank => rw [driverStep, PortFamily.beginVBlank_eq]
  | endVBlank | setSprite0Hit | setSpriteOverflow | setScanline | raiseNmi | setIrq | renderBgTile | renderSprite => rfl

theorem act_fault {s : State} {f : Fault} (h : s.fault = some f) (a : Action) : (act a s).fault = some f := by
  cases a with
  | cpu => exact (congrArg State.fault (leaves_of_fault h)).trans h
  | driver d => exact (driverStep_fault d s).trans h

theorem runSchedule_fault {s : State} {f : Fault} (h : s.fault = some f) (schedule : List Action) :
    (runSchedule schedule s).fault = some f := by
  induction schedule generalizing s with
  | nil => exact h
  | cons a as ih => exact ih (act_fault h a)

/-- Settles O11: by induction over the schedule, whose every action keeps a recorded fault. -/
theorem faultIsSticky : Obligations.FaultIsSticky := fun _ _ h =>
  ⟨step_of_fault h, leaves_of_fault h,
    fun schedule => ⟨runSchedule_fault h schedule, step_of_fault (runSchedule_fault h schedule)⟩⟩

/-- Settles O12: of the five things a step does, only the sticky fault and the undefined opcode answer no next state. -/
theorem onlyAnUndefinedOpcodeStops : Obligations.OnlyAnUndefinedOpcodeStops := by
  intro s
  rcases leaves_cases s with ⟨_, hf, _, hs⟩ | ⟨_, _, _, hs⟩ | ⟨_, _, _, _, _, hs⟩ | ⟨hfetch, op, t, he, _, hs⟩ |
    ⟨_, _, _, _, _, hs⟩ <;> rw [hs]
  case inl =>
    refine ⟨nofun, fun f h => .inl ?_⟩
    cases h
    exact hf
  case inr.inr.inr.inl =>
    refine ⟨nofun, fun f h => .inr ?_⟩
    obtain ⟨rfl, hop, -⟩ := fetchInstr_undefined he
    cases h
    exact ⟨hfetch, hop, rfl⟩
  all_goals exact ⟨nofun, nofun⟩

/-! ## Completion -/

/-- Bus accesses and changes of registers keep the fault record and what only the driver writes (10_state.md R118). -/
theorem keeps_busClosed : BusClosed fun s t => t.fault = s.fault ∧ KeepsDriverState s t where
  trans := fun ⟨hf, hk⟩ ⟨hf', hk'⟩ => ⟨hf'.trans hf, keeps_trans hk hk'⟩
  regs := fun s _ _ _ _ _ _ => ⟨rfl, keeps_refl s⟩
  read := fun a s => ⟨memRead_fault a s, keeps_memRead a s⟩
  write := fun a v s => ⟨memWrite_fault a v s, keeps_memWrite a v s⟩

/-- Settles O13: every instruction is its mnemonic's effect, which acts by bus accesses and changes of registers. -/
theorem everyInstructionCompletes : Obligations.EveryInstructionCompletes := fun i s =>
  ⟨_, exec_eq_effect i s, keeps_busClosed.effect _ _ s⟩

/-! ## Entry and return -/

theorem nmiVector_range : 0x4020 ≤ nmiVector.toNat ∧ nmiVector.toNat < 0xFFFF := by decide

theorem irqVector_range : 0x4020 ≤ irqVector.toNat ∧ irqVector.toNat < 0xFFFF := by decide

/-- The NMI entry is an entry from the state with the latch cleared (60_exceptions.md R1608). -/
theorem entersHandler_takeNmi {s : State} (hw : Memory.wf s.mem = true) :
    EntersHandler { s with nmiPending := false } (takeNmi s) s.pc (statusOf false s.flags) 0xFFFA :=
  entersHandler (s := s.setNmi false) hw s.pc false nmiVector_range.1 nmiVector_range.2

theorem entersHandler_takeIrq {s : State} (hw : Memory.wf s.mem = true) :
    EntersHandler s (takeIrq s) s.pc (statusOf false s.flags) 0xFFFE :=
  entersHandler hw s.pc false irqVector_range.1 irqVector_range.2

/-- Settles O9: each interrupt's poll, and the entry through its vector. -/
theorem interruptEntry : Obligations.InterruptEntry := by
  intro s hf hw
  refine ⟨fun hn => ⟨_, step_of_nmiPending hf hn, entersHandler_takeNmi hw⟩,
    fun hn hq hi => ⟨_, step_of_unmaskedIrq hf hn hq hi, entersHandler_takeIrq hw, ?_⟩⟩
  obtain ⟨hirq, -⟩ := keeps_enterHandler s.pc false irqVector_range.1 irqVector_range.2 s
  exact hirq.trans hq

/-- After an entry the three slots above S hold the status byte and the return address (60_exceptions.md R1607). -/
theorem slots_of_entersHandler {s t : State} {ret vec : Word} {st : Byte} (h : EntersHandler s t ret st vec) :
    t.sp + 3 = s.sp ∧ byteAt t (stackSlot (t.sp + 1)) = some st ∧
      byteAt t (stackSlot (t.sp + 2)) = some (lowByte ret) ∧ byteAt t (stackSlot (t.sp + 3)) = some (highByte ret) := by
  obtain ⟨⟨hslot, -, ht⟩, -, -⟩ := h
  have hsp : t.sp = s.sp - 3 := congrArg State.sp ht
  have hsp1 : t.sp + 1 = s.sp - 2 := by rw [hsp]; bv_omega
  have hsp2 : t.sp + 2 = s.sp - 1 := by rw [hsp]; bv_omega
  have hsp3 : t.sp + 3 = s.sp := by rw [hsp]; bv_omega
  refine ⟨hsp3, hsp1 ▸ hslot 2 _ rfl, hsp2 ▸ hslot 1 _ rfl, ?_⟩
  rw [hsp3]
  simpa [highByte] using hslot 0 _ rfl

/-- RTI right after an entry undoes it but for the bytes on the stack, with PC at the return address that was pushed
(60_exceptions.md R1611). -/
theorem rti_of_entersHandler {s t : State} {ret vec : Word} {b : Bool}
    (h : EntersHandler s t ret (statusOf b s.flags) vec) : exec .rti t = .next { s with mem := t.mem, pc := ret } := by
  obtain ⟨hsp, hv, hlo, hhi⟩ := slots_of_entersHandler h
  obtain ⟨⟨-, -, hframe⟩, -, -⟩ := h
  obtain ⟨-, -, -, hpull⟩ := StackJumpFamily.pullInstructionResults
  obtain ⟨v, lo, hi, hv', hlo', hhi', -, -, hrti⟩ := hpull t
  obtain rfl : v = statusOf b s.flags := Option.some.inj (hv'.symm.trans hv)
  obtain rfl : lo = lowByte ret := Option.some.inj (hlo'.symm.trans hlo)
  obtain rfl : hi = highByte ret := Option.some.inj (hhi'.symm.trans hhi)
  have hflags : unpackP (statusOf b s.flags) = s.flags := by rw [← Flags.packP_eq_statusOf, Flags.unpackP_packP]
  rw [← AddressingFamily.joinBytes_eq_ofNat, Decode.joinBytes_high_low, hsp] at hrti
  change exec .rti t = .next (((t.setSp s.sp).setPc ret).setFlags (unpackP (statusOf b s.flags))) at hrti
  rw [hrti, hflags]
  exact congrArg (fun u : State => Host.Outcome.next (((u.setSp s.sp).setPc ret).setFlags s.flags)) hframe

/-- Settles O32: each of the three is an entry, and RTI undoes an entry. -/
theorem returnResumesTheInterruptedProgram : Obligations.ReturnResumesTheInterruptedProgram := by
  intro s t hw hf
  refine ⟨fun hn ht => ?_, fun hn hq hi ht => ?_, fun ht => ?_⟩
  · rw [step_of_nmiPending hf hn] at ht
    cases ht
    exact rti_of_entersHandler (entersHandler_takeNmi hw)
  · rw [step_of_unmaskedIrq hf hn hq hi] at ht
    cases ht
    exact rti_of_entersHandler (entersHandler_takeIrq hw)
  · obtain ⟨-, hbrk⟩ := StackJumpFamily.brkResult
    obtain ⟨u, hu, henter⟩ := hbrk s hw
    rw [hu] at ht
    cases ht
    exact rti_of_entersHandler henter

/-! ## Requests of the NMI -/

/-- A request of the NMI by a write of PPUCTRL: bit 7 turned on, in vertical blank (48_ppu_ports.md R1201). -/
def RequestsNmi (s t : State) : Prop :=
  t.nmiPending = true ∧ t.ppu.vblank = true ∧ s.ppu.ctrl.getLsbD 7 = false ∧ t.ppu.ctrl.getLsbD 7 = true

theorem portWrite_nmi (p : Port) (v : Byte) (s : State) :
    (portWrite p v s).nmiPending = s.nmiPending ∨ RequestsNmi s (portWrite p v s) := by
  cases p
  case ppuCtrl =>
    rw [portWrite, Ports.writeCtrl_eq]
    cases hb : !s.ppu.ctrl.getLsbD 7 && v.getLsbD 7 && s.ppu.vblank
    · exact .inl (Bool.or_false _)
    · simp only [Bool.and_eq_true, Bool.not_eq_true'] at hb
      obtain ⟨⟨hoff, hon⟩, hv⟩ := hb
      exact .inr ⟨Bool.or_true _, hv, hoff, hon⟩
  all_goals exact .inl rfl

/-- A bus write keeps the NMI latch, or requests the NMI through PPUCTRL (60_exceptions.md R1604). -/
theorem memWrite_nmi (a : Word) (v : Byte) (s : State) :
    (memWrite a v s).nmiPending = s.nmiPending ∨ RequestsNmi s (memWrite a v s) := by
  unfold memWrite
  split
  case h_2 p _ => exact portWrite_nmi p v s
  case h_3 =>
    obtain ⟨_, _, h, -⟩ := dmaFrom_frame v 256 0 s
    exact .inl (by rw [oamDma, h])
  case h_5 => split <;> exact .inl rfl
  all_goals exact .inl rfl

theorem storeAt_nmi (ea : Resolved) (v : Byte) (s : State) :
    (storeAt ea v s).nmiPending = s.nmiPending ∨ RequestsNmi s (storeAt ea v s) := by
  cases ea with
  | addr a => exact memWrite_nmi a v s
  | noAddr | imm => exact .inl rfl

/-- An instruction makes at most one write that can reach PPUCTRL, so it keeps the latch or requests the NMI as that write
does (60_exceptions.md R1604). -/
theorem effect_nmi (i : Instr) (s : State) :
    (effect i.mnemonic i.operand s).nmiPending = s.nmiPending ∨ RequestsNmi s (effect i.mnemonic i.operand s) := by
  cases hp : pushes i.mnemonic
  case true =>
    obtain ⟨bs, _, _, -, e⟩ := StackJumpFamily.effect_pushes hp s
    obtain ⟨_, hframe⟩ := StackJumpFamily.pushAll_frame bs s
    rw [e, hframe]
    exact .inl rfl
  case false =>
    cases hm : storesToOperand i.mnemonic
    case true =>
      obtain ⟨v, u, f, ⟨_, _, _, _, _, rfl⟩, e⟩ := MemoryFamily.effect_stores hm i.operand s
      rw [e]
      exact storeAt_nmi _ v _
    case false =>
      obtain ⟨u, ⟨_, _, _, _, _, rfl⟩, _, _, _, _, _, _, e⟩ := AddressingFamily.effect_reads hp (.inl hm) s
      rw [e]
      exact .inl rfl

theorem enterHandler_nmi (ret : Word) (b : Bool) {vec : Word} (h : 0x4020 ≤ vec.toNat ∧ vec.toNat < 0xFFFF) (s : State) :
    (enterHandler ret b vec s).nmiPending = s.nmiPending := by
  rw [enterHandler_eq ret b h.1 h.2]

/-- No bus read moves the NMI latch or ctrl (20_memory.md R204). -/
theorem nmi_ctrl_of_readEffect {s t : State} (h : ReadEffect s t) :
    t.nmiPending = s.nmiPending ∧ t.ppu.ctrl = s.ppu.ctrl := by
  obtain ⟨_, _, _, _, _, rfl⟩ := h
  exact ⟨rfl, rfl⟩

/-- A step keeps the latch, requests the NMI, or takes a pending one (60_exceptions.md R1604, R1608). -/
theorem leaves_nmi (s : State) :
    (leaves s).nmiPending = s.nmiPending ∨ RequestsNmi s (leaves s) ∨
      (s.nmiPending = true ∧ s.fault = none ∧ step s = .next (takeNmi s)) := by
  rcases leaves_cases s with ⟨_, _, hl, _⟩ | ⟨hf, hn, _, hs⟩ | ⟨_, _, _, _, hl, _⟩ | ⟨_, op, t, he, hl, _⟩ |
    ⟨_, i, t, he, hl, _⟩
  · exact .inl (congrArg State.nmiPending hl)
  · exact .inr (.inr ⟨hn, hf, hs⟩)
  · rw [hl]
    exact .inl (enterHandler_nmi s.pc false irqVector_range s)
  · obtain ⟨-, -, rfl⟩ := fetchInstr_undefined he
    rw [hl]
    exact .inl (memRead_nmiPending s.pc s)
  · obtain ⟨-, -, hread⟩ := fetchInstr_instr he
    obtain ⟨hnmi, hctrl⟩ := nmi_ctrl_of_readEffect hread
    rw [State.nmiPending_setPc] at hnmi
    rw [State.ppu_setPc] at hctrl
    have hx := effect_nmi i t
    rw [RequestsNmi, hnmi, hctrl, ← hl] at hx
    exact hx.imp_right .inl

/-- No step begins a vertical blank (48_ppu_ports.md R1215). -/
theorem leaves_vblank {s : State} (h : (leaves s).ppu.vblank = true) : s.ppu.vblank = true := by
  obtain ⟨-, -, -, -, -, -, -, -, hv⟩ := CompositorFamily.leaves_of_busClosed
    (R := KeepsDriverState)
    ⟨keeps_trans, fun s _ _ _ _ _ _ => keeps_refl s, keeps_memRead, keeps_memWrite⟩
    (fun _ s => keeps_refl s) (fun _ s => keeps_refl s) s
  exact hv h

/-- An operation of the driver keeps the latch, or is one of the two that request the NMI (60_exceptions.md R1604). -/
theorem driverStep_nmi (d : DriverOp) (s : State) :
    (driverStep d s).nmiPending = s.nmiPending ∨
      (driverStep d s).nmiPending = true ∧ (d = .raiseNmi ∨ d = .beginVBlank ∧ s.ppu.ctrl.getLsbD 7 = true) := by
  cases d with
  | raiseNmi => exact .inr ⟨rfl, .inl rfl⟩
  | beginVBlank =>
    rw [driverStep, PortFamily.beginVBlank_eq]
    cases hc : s.ppu.ctrl.getLsbD 7
    · exact .inl (Bool.or_false _)
    · exact .inr ⟨Bool.or_true _, .inr ⟨rfl, rfl⟩⟩
  | endVBlank | setSprite0Hit | setSpriteOverflow | setScanline | setIrq | renderBgTile | renderSprite => exact .inl rfl

/-- Settles O55: by what each action does to the latch: keeps it, requests the NMI, or takes it. -/
theorem nmiRequestsHaveThreeSources : Obligations.NmiRequestsHaveThreeSources := by
  intro act' s
  refine ⟨fun hoff hon => ?_, fun hon hoff => ?_, fun hc => ?_, rfl, fun v hv hc h7 => ?_⟩
  · cases act' with
    | cpu =>
      rcases leaves_nmi s with h | ⟨-, hv, hc, hc'⟩ | ⟨h, -⟩
      · cases hon.symm.trans (h.trans hoff)
      · exact .inr (.inr ⟨rfl, leaves_vblank hv, hc, hc'⟩)
      · simp [hoff] at h
    | driver d =>
      rcases driverStep_nmi d s with h | ⟨-, rfl | ⟨rfl, hc⟩⟩
      · cases hon.symm.trans (h.trans hoff)
      · exact .inl rfl
      · exact .inr (.inl ⟨rfl, hc⟩)
  · cases act' with
    | cpu =>
      rcases leaves_nmi s with h | ⟨h, -⟩ | ⟨-, hf, hs⟩
      · cases hon.symm.trans (h.symm.trans hoff)
      · cases h.symm.trans hoff
      · exact ⟨rfl, hf, hs⟩
    | driver d =>
      rcases driverStep_nmi d s with h | ⟨h, -⟩
      · cases hon.symm.trans (h.symm.trans hoff)
      · cases h.symm.trans hoff
  · rw [act, driverStep, PortFamily.beginVBlank_eq]
    simp [hc]
  · obtain ⟨h, -⟩ := PortFamily.ppuPortWrites 0x2000 s v (by decide) (by decide)
    rw [h (by decide)]
    simp only [hv, hc, h7, Bool.not_false, Bool.and_self, Bool.or_true]

end Sys2Proof.Proofs.ExceptionFamily
end

section
/-! The reset and hazards family (70_reset_and_hazards.md): power-on, the delayed reads of the data port, a read-modify-write of
a port, and the poll right after a change of I. -/

namespace Sys2Proof.Proofs.ResetFamily

open Sys2Proof.Machine Sys2Proof.Safety Sys2Proof.Laws Sys2Proof.Laws.Bus Sys2Proof.Laws.Ports Sys2Proof.Laws.Exec
  Sys2Proof.Proofs.FlagFamily Sys2Proof.Proofs.PortFamily

/-! ## Power-on -/

/-- Settles O53: each field of the closed form, with PC as the word of the two bytes of the vector. -/
theorem powerOnValues : Obligations.PowerOnValues := by
  rintro rm cw c _ rfl
  rw [powerOn_eq]
  have hvector : ∀ a : Word, 0x4020 ≤ a.toNat → ∀ s : State, byteAt s a = some (memGet s.mem a.toNat) := by
    intro a ha s
    rw [byteAt, busRegion_cart ha]
  refine ⟨rfl, rfl, rfl, rfl, rfl, ⟨_, _, hvector _ (by decide) _, hvector _ (by decide) _, ?_⟩, rfl, rfl, rfl, rfl, rfl,
    rfl, rfl, rfl, rfl, rfl, rfl, rfl, rfl, rfl, rfl, rfl, rfl, rfl, rfl, rfl, rfl, rfl, rfl⟩
  exact AddressingFamily.joinBytes_eq_ofNat _ _

/-! ## Delayed reads of the data port -/

/-- A read of the data port, at each of its addresses (48_ppu_ports.md R1200, R1210). -/
theorem memRead_dataPort {a : Word} (h : 0x2000 ≤ a.toNat) (h' : a.toNat ≤ 0x3FFF) (hr : a.toNat % 8 = 7) (s : State) :
    memRead a s = readData s := by
  rw [memRead_port h h', hr]
  rfl

/-- A write of the data port, at each of its addresses (48_ppu_ports.md R1200, R1209). -/
theorem memWrite_dataPort {a : Word} (h : 0x2000 ≤ a.toNat) (h' : a.toNat ≤ 0x3FFF) (hr : a.toNat % 8 = 7) (v : Byte)
    (s : State) : memWrite a v s = s.setPpu (writeData v s.ppu) := by
  rw [memWrite_port h h', hr]
  rfl

/-- The VRAM pointer that a high and a low byte written to PPUADDR make (48_ppu_ports.md R1208). -/
def ppuAddress (hi lo : Byte) : Nat := 256 * (hi.toNat % 64) + lo.toNat

theorem toNat_ppuAddress (hi lo : Byte) : (BitVec.ofNat 14 (ppuAddress hi lo)).toNat = ppuAddress hi lo := by
  have := lo.isLt
  rw [BitVec.toNat_ofNat, ppuAddress]
  omega

/-- With the toggle clear, a pair of PPUADDR writes sets the pointer and leaves the toggle clear (48_ppu_ports.md R1208). -/
theorem writeAddr_pair {p : Ppu} (hw : p.w = false) (hi lo : Byte) :
    writeAddr lo (writeAddr hi p) = { p with vramAddr := BitVec.ofNat 14 (ppuAddress hi lo) } := by
  have hhigh : (BitVec.ofNat 14 (256 * (hi.toNat % 64) + p.vramAddr.toNat % 256)).toNat / 256 = hi.toNat % 64 := by
    rw [BitVec.toNat_ofNat]
    omega
  rw [writeAddr_eq, writeAddr_eq]
  simp only [hw, Bool.not_false, Bool.false_eq_true, if_false, if_true, Bool.not_true, hhigh, ppuAddress]

/-- Settles O45: the pair sets the pointer, the first read fills the buffer from there, and the second gives the buffer. -/
theorem vramReadsAreDelayedByOne : Obligations.VramReadsAreDelayedByOne := by
  intro s t1 t2 hi lo b1 b2 hw h1 h2
  have hpair : memWrite 0x2006 lo (memWrite 0x2006 hi s) =
      s.setPpu { s.ppu with vramAddr := BitVec.ofNat 14 (ppuAddress hi lo) } :=
    congrArg s.setPpu (writeAddr_pair hw hi lo)
  rw [hpair, memRead_dataPort (by decide) (by decide) (by decide), readData_eq] at h1
  cases h1
  rw [memRead_dataPort (by decide) (by decide) (by decide), readData_eq] at h2
  cases h2
  exact ⟨rfl, congrArg (vramRead s.ppu) (toNat_ppuAddress hi lo)⟩

/-! ## Read-modify-write of a port -/

/-- INC, DEC and the shifts read their address once, write the changed byte to it once, and then write flags (42_shift.md
R604, 45_arith.md R907, R908). -/
theorem effect_readModifyWrite {mn : Mnemonic} {o : Operand} {s u : State} {ea : Word} {v r : Byte}
    (ha : resolve o s = (.addr ea, s)) (hv : memRead ea s = (v, u))
    (h : mn = .inc ∧ r.toNat = (v.toNat + 1) % 256 ∨ mn = .dec ∧ r.toNat = (v.toNat + 255) % 256 ∨
      mn = .asl ∧ r.toNat = 2 * v.toNat % 256 ∨ mn = .lsr ∧ r.toNat = v.toNat / 2 ∨
      mn = .rol ∧ r.toNat = (2 * v.toNat + s.flags.c.toNat) % 256 ∨
      mn = .ror ∧ r.toNat = v.toNat / 2 + 128 * s.flags.c.toNat) :
    ∃ f, effect mn o s = (memWrite ea r u).setFlags f := by
  rcases h with h | h | ⟨hm, hr⟩ | ⟨hm, hr⟩ | ⟨hm, hr⟩ | ⟨hm, hr⟩
  · exact ⟨_, ArithFamily.effect_incDec ha hv (.inl h)⟩
  · exact ⟨_, ArithFamily.effect_incDec ha hv (.inr h)⟩
  · exact ⟨_, ShiftFamily.effect_shift ha hv (.inl ⟨hm, hr, rfl⟩)⟩
  · exact ⟨_, ShiftFamily.effect_shift ha hv (.inr (.inl ⟨hm, hr, rfl⟩))⟩
  · exact ⟨_, ShiftFamily.effect_shift ha hv (.inr (.inr (.inl ⟨hm, hr, rfl⟩)))⟩
  · exact ⟨_, ShiftFamily.effect_shift ha hv (.inr (.inr (.inr ⟨hm, hr, rfl⟩)))⟩

/-- Advancing the VRAM pointer twice is one sum modulo $4000 (48_ppu_ports.md R1211). -/
theorem vramAddr_advance_twice (n inc : Nat) :
    BitVec.ofNat 14 ((BitVec.ofNat 14 (n + inc)).toNat + inc) = BitVec.ofNat 14 (n + 2 * inc) := by
  apply BitVec.eq_of_toNat_eq
  rw [BitVec.toNat_ofNat, BitVec.toNat_ofNat, BitVec.toNat_ofNat]
  omega

/-- Settles O46: the one read and the one write of the six, and at the data port the two advances of the pointer. -/
theorem readModifyWriteOfTheDataPort : Obligations.ReadModifyWriteOfTheDataPort := by
  intro i s u ea v r ha hle hge hv hr
  obtain ⟨f, hf⟩ := effect_readModifyWrite ha hv hr
  have hx : exec i s = .next ((memWrite ea r u).setFlags f) := by rw [exec_eq_effect, hf]
  refine ⟨⟨f, hx⟩, ?_⟩
  rintro h7 hwf inc rfl
  rw [memRead_dataPort hle hge h7, readData_eq] at hv
  cases hv
  rw [memWrite_dataPort hle hge h7, writeData_eq] at hx
  refine ⟨rfl, _, hx, ?_, rfl, vramAddr_advance_twice _ _⟩
  exact Vram.vramRead_vramWrite_same hwf (canon_ofNat s.ppu.mirroring _).symm

/-! ## The poll after a change of I -/

/-- PLP and RTI take I from bit 2 of the byte they pull, and move nothing else that the poll looks at (47_stack_jump.md
R1105, R1109). -/
theorem poll_of_pulled_flags {s t : State} {i : Instr} {p : Byte} (hi : i = .plp ∨ i = .rti)
    (hp : byteAt s (stackSlot (s.sp + 1)) = some p) (hx : exec i s = .next t) :
    t.flags.i = p.getLsbD 2 ∧ t.fault = s.fault ∧ t.nmiPending = s.nmiPending ∧ t.irqLine = s.irqLine := by
  obtain ⟨-, -, -, hpull⟩ := StackJumpFamily.pullInstructionResults
  obtain ⟨v, _, _, hv, -, -, -, hplp, hrti⟩ := hpull s
  obtain rfl : p = v := Option.some.inj (hp.symm.trans hv)
  rcases hi with rfl | rfl
  · rw [hplp] at hx
    cases hx
    exact ⟨rfl, rfl, rfl, rfl⟩
  · rw [hrti] at hx
    cases hx
    exact ⟨rfl, rfl, rfl, rfl⟩

/-- Settles O57: CLI and SEI write I, PLP and RTI pull it, and the next poll reads it. -/
theorem interruptMaskChangesAreSeenAtOnce : Obligations.InterruptMaskChangesAreSeenAtOnce := by
  intro s t i p hf hn hq hp hx
  constructor
  · rintro (rfl | ⟨hi, hclear⟩)
    · exact step_after_cli hf hq hn hx
    · obtain ⟨hflag, hf', hn', hq'⟩ := poll_of_pulled_flags hi hp hx
      exact step_of_unmaskedIrq (hf'.trans hf) (hn'.trans hn) (hq'.trans hq) (hflag.trans hclear)
  · rintro (rfl | ⟨hi, hset⟩)
    · exact fetches_after_sei hf hn hx
    · obtain ⟨hflag, hf', hn', -⟩ := poll_of_pulled_flags hi hp hx
      exact ⟨hf'.trans hf, hn'.trans hn, .inr (hflag.trans hset)⟩

end Sys2Proof.Proofs.ResetFamily
end
